-- ==== Sys2Proof/Word.lean ====
section
/-! DEFINITION. The bit-vector types the CFE's values have (spec/00_scope.md R7, R11).

All values are unsigned (R11), so a plain `BitVec` says what each of them is. -/

namespace Sys2Proof

/-- A byte of the frame buffer or of the wire frame (R43, R106). -/
abbrev Byte := BitVec 8

/-- A 16-bit checksum word, a length, a sum (R7: "checksum width 16 bits"). -/
abbrev Half := BitVec 16

/-- A 32-bit register value or command word (R7: "register data width 32 bits"). -/
abbrev Word := BitVec 32

/-- A byte offset into the CFE's aperture (R7: "bus offset width 17 bits"). -/
abbrev Offset := BitVec 17

end Sys2Proof
end

