-- ==== Sys2Proof/Syntax.lean ====
section
/-! DEFINITION. The CFE's commands, one constructor per row of spec/opcode_table.json
(spec/30_encoding.md R101). -/

namespace Sys2Proof

/-- A command (R101).  The operand fields of FRAME_ENCODE have exactly the widths R102 gives them,
"and these widths hold exactly those values": no term of this type has an out-of-range operand.
Every other command takes its operands from LEN and the buffer alone (R102). -/
inductive Instr where
  /-- NOP, OP = 0x0 (spec/40_commands_common.md R140). -/
  | nop
  /-- CSUM_COMPUTE, OP = 0x1 (spec/41_checksum.md R170). -/
  | csumCompute
  /-- CSUM_VERIFY, OP = 0x2 (spec/41_checksum.md R175). -/
  | csumVerify
  /-- FRAME_ENCODE, OP = 0x3, with its SEQ and KIND fields (spec/42_framer.md R195). -/
  | frameEncode (seq : BitVec 1) (kind : BitVec 2)
  /-- FRAME_DECODE, OP = 0x4 (spec/42_framer.md R205). -/
  | frameDecode
deriving DecidableEq, Repr

end Sys2Proof
end

