-- ==== Sys2Proof/WellFormed.lean ====
section
/-! DEFINITION. What a writer of commands may not write: the operand checks of the assembler
(spec/30_encoding.md R113, R102).

A term of `Instr` is always well-formed, because SEQ and KIND have exactly the widths of their legal
values (R102).  An operand out of range can be WRITTEN only in the assembler's text, where it is a
number; there "the assembler refuses any other operand" (R113). -/

namespace Sys2Proof

/-- `<kind>`: `DATA`, `ACK`, `GET`, `END`, or a number (R113). -/
inductive KindOperand where
  | kindData
  | kindAck
  | kindGet
  | kindEnd
  | number (n : Nat)
deriving DecidableEq, Repr

/-- The kind code: DATA = 0, ACK = 1, GET = 2, END = 3 (R111). -/
def KindOperand.value : KindOperand → Nat
  | .kindData => 0
  | .kindAck => 1
  | .kindGet => 2
  | .kindEnd => 3
  | .number n => n

/-- One line of assembler text (R113): the five mnemonics, and `.word <value>`, which "writes a raw
command word, including an illegal one". -/
inductive AsmCommand where
  | nop
  | csumCompute
  | csumVerify
  | frameEncode (seq : Nat) (kind : KindOperand)
  | frameDecode
  | rawWord (w : Word)
deriving DecidableEq, Repr

/-- "`<seq>` is 0 or 1" (R113). -/
def seqOperandOk (seq : Nat) : Bool := decide (seq ≤ 1)

/-- "`<kind>` is `DATA`, `ACK`, `GET`, `END` or a number 0 to 3" (R113). -/
def kindOperandOk (kind : KindOperand) : Bool := decide (kind.value ≤ 3)

/-- The assembler's acceptance: both operands of `frame.encode` in range (R113, R102). -/
def AsmCommand.wellFormed : AsmCommand → Bool
  | .nop => true
  | .csumCompute => true
  | .csumVerify => true
  | .frameEncode seq kind => seqOperandOk seq && kindOperandOk kind
  | .frameDecode => true
  | .rawWord _ => true

/-- Every command is well-formed: the operand fields' widths "hold exactly those values" (R102). -/
def Instr.wellFormed : Instr → Bool
  | .nop => true
  | .csumCompute => true
  | .csumVerify => true
  | .frameEncode _ _ => true
  | .frameDecode => true

end Sys2Proof
end

