-- ==== Sys2Proof/Decode.lean ====
section
/-! DEFINITION. The command decoder, total on 32-bit words and refusing by name
(spec/30_encoding.md R100, R103, R104), the encoder written from the same table, and the assembler
(R113). -/

namespace Sys2Proof

/-- OP, `w[3:0]` (R100). -/
def opField (w : Word) : BitVec 4 := w.extractLsb' 0 4

/-- SEQ, `w[4]` (R100). -/
def seqField (w : Word) : BitVec 1 := w.extractLsb' 4 1

/-- KIND, `w[6:5]` (R100). -/
def kindField (w : Word) : BitVec 2 := w.extractLsb' 5 2

/-- `w[6:4]`, KIND and SEQ together: the field R104 compares with 0. -/
def operandField (w : Word) : BitVec 3 := w.extractLsb' 4 3

/-- The reserved bits `w[31:7]` (R100). -/
def reservedField (w : Word) : BitVec 25 := w.extractLsb' 7 25

/-- Why a word is ILLEGAL: the three conditions of R103.  The CFE reports one code for all of them
(spec/40_commands_common.md R141); which name the decoder gives is the model's own detail (log 16). -/
inductive IllegalWord where
  /-- `w[31:7] ≠ 0` (R103 item 2). -/
  | reservedBits
  /-- `w[3:0]` is 0x5 to 0xF (R103 item 1). -/
  | reservedOp
  /-- SEQ or KIND set on a command that takes neither (R103 item 3). -/
  | strayOperand
deriving DecidableEq, Repr

/-- A command that takes neither SEQ nor KIND: legal only with `w[6:4] = 0` (R104). -/
def withoutOperands (w : Word) (i : Instr) : Except IllegalWord Instr :=
  if operandField w = 0 then .ok i else .error .strayOperand

/-- `decodeCmd` (R104); an `.error` is R104's ILLEGAL. -/
def decodeCmd (w : Word) : Except IllegalWord Instr :=
  if reservedField w ≠ 0 then .error .reservedBits
  else match (opField w).toNat with
    | 0x0 => withoutOperands w .nop
    | 0x1 => withoutOperands w .csumCompute
    | 0x2 => withoutOperands w .csumVerify
    | 0x3 => .ok (.frameEncode (seqField w) (kindField w))
    | 0x4 => withoutOperands w .frameDecode
    | _ => .error .reservedOp

/-- The command word of a command (R104, R113): FRAME_ENCODE is `0x00000003 | SEQ << 4 | KIND << 5`. -/
def encode : Instr → Word
  | .nop => 0x00000000#32
  | .csumCompute => 0x00000001#32
  | .csumVerify => 0x00000002#32
  | .frameEncode seq kind =>
      0x00000003#32 ||| (seq.zeroExtend 32 <<< 4) ||| (kind.zeroExtend 32 <<< 5)
  | .frameDecode => 0x00000004#32

/-- The word an assembler line stands for, or none where the assembler refuses it (R113). -/
def assemble (c : AsmCommand) : Option Word :=
  if c.wellFormed then
    match c with
    | .nop => some (encode .nop)
    | .csumCompute => some (encode .csumCompute)
    | .csumVerify => some (encode .csumVerify)
    | .frameEncode seq kind => some (encode (.frameEncode (.ofNat 1 seq) (.ofNat 2 kind.value)))
    | .frameDecode => some (encode .frameDecode)
    | .rawWord w => some w
  else none

/-- The instruction the decoder reads from the command word whose low `nbits` bits are `w` and whose
other bits are 0.  "Every command is exactly one 32-bit word" (R100), so more than 32 bits is none. -/
def decodeTableWord (nbits w : Nat) : Option Instr :=
  if nbits ≤ 32 then (decodeCmd (.ofNat 32 (w % 2 ^ nbits))).toOption else none

end Sys2Proof
end

