-- ==== Sys2Proof/Config.lean ====
section
/-! DEFINITION. What an implementation fixes once for a whole run (spec/00_scope.md R6), and the one
value the model chooses for an unwritten buffer byte.

The spec leaves no instruction an undefined result, so there is no free value here. -/

namespace Sys2Proof

/-- The parameters of R6.  `P_MAX_PAYLOAD` has "legal values 0 to 65529", which the type holds
exactly; every statement about a state is therefore a statement for every legal value (log 3). -/
structure Params where
  /-- `P_MAX_PAYLOAD`: the largest payload FRAME_ENCODE accepts, in bytes. -/
  maxPayload : Fin 65530
deriving DecidableEq, Repr

namespace Config

/-- "header length 6 bytes" (R7). -/
abbrev headerBytes : Nat := 6

/-- `P_BUF_BYTES`: "exactly `P_MAX_PAYLOAD + 6`" (R6). -/
def bufBytes (p : Params) : Nat := p.maxPayload.val + headerBytes

/-- "this spec's value: 1024 (reference)" (R6). -/
def reference : Params := ⟨⟨1024, by decide⟩⟩

/-- What a buffer byte that no list entry names reads as.  The spec leaves a byte's power-on value
unspecified (R48).  DESIGN CHOICE, unsafe (log 4): zero.  Nothing but `State.reset` rests on it: a
state's listed cells can hold any buffer contents at all, and `State.powerOn` takes the initial
buffer as an argument. -/
def unwrittenByte : Byte := 0#8

/-- The first aperture offset past the register region (spec/20_memory.md R72). -/
abbrev registerEnd : Nat := 0x20

/-- The aperture offset of `FB[0]` (spec/20_memory.md R72). -/
abbrev bufferBase : Nat := 0x10000

end Config
end Sys2Proof
end

