-- ==== Sys2Proof/Machine/State.lean ====
section
/-! DEFINITION. The state of the CFE (spec/10_state.md R32), what stops a step, and the state after
power-on and reset (R48).

`State` holds exactly the fields of R32 and, below them, the three fields that are the model's own:
the parameters (R6), the schedule of steps still to come (R9) and the responses given so far (R70). -/

namespace Sys2Proof.Machine

open Sys2Proof

/-- The frame buffer FB (R43): the bytes that differ from `Config.unwrittenByte`, by index, indexes
strictly rising (`Memory.wf`, Machine/Ops.lean). -/
abbrev Memory := List Host.Cell

/-- STATUS.ERR (spec/60_exceptions.md R230).  Codes 0x7 to 0xF are "never produced", and "A model may
type ERR as the seven codes 0 to 6" (spec/93_implementation_defined.md I9; log 9). -/
inductive CmdErr where
  /-- 0x0 NONE: the command succeeded. -/
  | none
  /-- 0x1 SHORT: frame shorter than 6 bytes. -/
  | short
  /-- 0x2 LENGTH: declared length differs from `LEN - 6`. -/
  | length
  /-- 0x3 CHECKSUM: one's-complement sum of the bytes is not 0xFFFF. -/
  | checksum
  /-- 0x4 FIELD: STRICT = 1 and sequence byte > 1 or kind byte > 3. -/
  | field
  /-- 0x5 RANGE: the LEN operand exceeds what the command may address. -/
  | range
  /-- 0x6 ILLEGAL: the command word is illegal. -/
  | illegal
deriving DecidableEq, Repr

/-- A bus transaction (spec/20_memory.md R70). -/
structure Txn where
  /-- true for a write, false for a read. -/
  we : Bool
  /-- The access size in bytes; only 1 and 4 are legal (R74; log 10). -/
  size : Nat
  /-- The byte offset into the aperture. -/
  off : Offset
  /-- Write data, "used only by writes". -/
  wdata : Word
deriving DecidableEq, Repr

/-- The response to a bus transaction (spec/20_memory.md R70). -/
structure BusResponse where
  rdata : Word
  /-- true for an error response (R76). -/
  err : Bool
deriving DecidableEq, Repr

/-- One step of a run (spec/00_scope.md R9). -/
inductive Move where
  /-- A host step: one bus transaction. -/
  | host (t : Txn)
  /-- An engine step: completion of the pending command. -/
  | engine
  /-- A reset step. -/
  | reset
deriving DecidableEq, Repr

/-- The machine's state. -/
structure State where
  /-- The frame buffer FB (R43). -/
  fb : Memory
  /-- The command issued and not yet completed (R46). -/
  pending : Option Word
  /-- STATUS[1] (R35). -/
  done : Bool
  /-- STATUS[2] (R35). -/
  ok : Bool
  /-- STATUS[3] (R35). -/
  werr : Bool
  /-- STATUS[7:4] (R35). -/
  err : CmdErr
  /-- CTRL[0], interrupt enable (R37). -/
  ie : Bool
  /-- CTRL[1], strict header check (R37). -/
  strict : Bool
  /-- LEN[15:0] (R38). -/
  len : Half
  /-- RESULT[31:16] (R39). -/
  sum : Half
  /-- RESULT[15:0] (R39). -/
  csum : Half
  /-- RX_HDR[31:24] (R40). -/
  rxSeq : Byte
  /-- RX_HDR[23:16] (R40). -/
  rxKind : Byte
  /-- RX_HDR[15:0] (R40). -/
  rxLen : Half
  /-- RX_CSUM[15:0] (R41). -/
  rxCsum : Half
  /-- The MODEL's own: the parameters of R6, which no step changes (log 3). -/
  params : Params
  /-- The MODEL's own: the steps of the run still to come, next one first (R9; log 1). -/
  moves : List Move
  /-- The MODEL's own: the bus responses given so far, of reads and of writes,
  oldest first (R70; log 2).  What reads returned is R291's observation, Machine/Observation.lean. -/
  responses : List BusResponse
deriving DecidableEq, Repr

/-- Nothing stops the CFE with a fault: "No error stops the CFE.  After any completion it is idle and
takes the next command" (spec/60_exceptions.md R231), and a rejected transaction gets a response
(spec/20_memory.md R76).  So there is no constructor, and no step can fault (log 14; safe). -/
inductive Fault where
deriving DecidableEq, Repr

/-- Why a step is refused. -/
inductive Refusal where
  /-- Raised by an arm of `exec` whose instruction has no meaning yet.  Safe.  No arm raises it. -/
  | notModelled (mnemonic : String)
  /-- Raised by the step when the schedule names an engine step and no command is pending.  Safe:
  the schedule is no run of R9, since "With no command pending the engine has no step"
  (spec/40_commands_common.md R131), and completing a command twice, or one a reset discarded, is
  what a model refuses (spec/93_implementation_defined.md I16; log 6). -/
  | engineStepNotEnabled
deriving DecidableEq, Repr

/-- The state at power-on, with the parameters and the initial buffer as arguments: "A model takes
the initial buffer as an argument and quantifies over it" (R48).  Every other field is R48's. -/
def State.powerOn (p : Params) (fb0 : Memory) : State where
  fb := fb0
  pending := Option.none
  done := false
  ok := false
  werr := false
  err := .none
  ie := false
  strict := false
  len := 0x0000#16
  sum := 0x0000#16
  csum := 0x0000#16
  rxSeq := 0x00#8
  rxKind := 0x00#8
  rxLen := 0x0000#16
  rxCsum := 0x0000#16
  params := p
  moves := []
  responses := []

/-- The machine right after power-on, with the reference parameters (R6), no listed buffer byte
(log 4) and an empty schedule (log 1). -/
def State.reset : State := State.powerOn Config.reference []

end Sys2Proof.Machine
end

