-- ==== Sys2Proof/Machine/Flags.lean ====
section
/-! DEFINITION. The flags (spec/10_state.md R35, R36, R42) and the interrupt output
(spec/60_exceptions.md R240). -/

namespace Sys2Proof.Machine

open Sys2Proof

/-- The 4-bit code of an error (spec/60_exceptions.md R230). -/
def errCode : CmdErr → BitVec 4
  | .none => 0x0#4
  | .short => 0x1#4
  | .length => 0x2#4
  | .checksum => 0x3#4
  | .field => 0x4#4
  | .range => 0x5#4
  | .illegal => 0x6#4

/-- BUSY mirrors `pending ≠ none` (R35). -/
def busy (s : State) : Bool := s.pending.isSome

/-- `read(STATUS) = zext_32({err, werr, ok, done, busy})` (R35). -/
def statusWord (s : State) : Word :=
  (errCode s.err ++ BitVec.ofBool s.werr ++ BitVec.ofBool s.ok ++ BitVec.ofBool s.done
    ++ BitVec.ofBool (busy s)).zeroExtend 32

/-- The effect of a STATUS write of `w`: bit 1 clears DONE, bit 3 clears WERR, "and nothing else"
(R36). -/
def clearStatus (w : Word) (s : State) : State :=
  { s with
    done := if w.getLsbD 1 then false else s.done
    werr := if w.getLsbD 3 then false else s.werr }

/-- The flags a completion writes (spec/40_commands_common.md R134): OK, ERR, BUSY (through
`pending`) and DONE.  `werr` "is not touched". -/
def completionFlags (ok : Bool) (err : CmdErr) (s : State) : State :=
  { s with ok := ok, err := err, pending := Option.none, done := true }

/-- The interrupt output: `irq = ie ∧ done` (spec/60_exceptions.md R240). -/
def irq (s : State) : Bool := s.ie && s.done

end Sys2Proof.Machine
end

