-- ==== Sys2Proof/Machine/Ops.lean ====
section
/-! DEFINITION. The shared operations: the frame buffer's reads and writes (spec/00_scope.md R12),
the outcomes of a command (R12) and their application at completion (spec/40_commands_common.md
R134), issue (R130), the dropped write (spec/20_memory.md R78) and the reset step
(spec/70_reset_and_hazards.md R270). -/

namespace Sys2Proof.Machine

open Sys2Proof

/-! ## The frame buffer -/

/-- `FB[i]` (R12). -/
def Memory.read : Memory → Nat → Byte
  | [], _ => Config.unwrittenByte
  | (k, b) :: rest, i => if k = i then b else Memory.read rest i

/-- `FB[i] <- b`, keeping the canonical form: writing what an unlisted byte reads as removes the
entry. -/
def Memory.write : Memory → Nat → Byte → Memory
  | [], i, b => if b = Config.unwrittenByte then [] else [(i, b)]
  | (k, c) :: rest, i, b =>
      if i < k then
        if b = Config.unwrittenByte then (k, c) :: rest else (i, b) :: (k, c) :: rest
      else if i = k then
        if b = Config.unwrittenByte then rest else (i, b) :: rest
      else (k, c) :: Memory.write rest i b

/-- `MemRead(a, n)`: the byte sequence `FB[a..a+n)` (R12). -/
def Memory.readBytes (m : Memory) (a : Nat) : Nat → List Byte
  | 0 => []
  | n + 1 => Memory.read m a :: Memory.readBytes m (a + 1) n

/-- `MemWrite(a, n, v)`: the bytes of `v` to `FB[a..a+n)`, with `n` the length of `v` (R12). -/
def Memory.writeBytes (m : Memory) (a : Nat) : List Byte → Memory
  | [] => m
  | b :: bs => Memory.writeBytes (Memory.write m a b) (a + 1) bs

/-- Indexes strictly rising from `lo` on, and no entry equal to what an unlisted byte reads as. -/
def Memory.canonicalFrom (lo : Nat) : Memory → Bool
  | [] => true
  | (k, b) :: rest =>
      decide (lo ≤ k) && decide (b ≠ Config.unwrittenByte) && Memory.canonicalFrom (k + 1) rest

/-- The canonical form of a buffer: equal contents are equal lists. -/
def Memory.wf (m : Memory) : Bool := Memory.canonicalFrom 0 m

/-- Every listed index lies below `n`. -/
def Memory.below (n : Nat) (m : Memory) : Bool := m.all (fun c => decide (c.1 < n))

/-! ## The outcome of a command (R12) -/

/-- The set `E` of register and buffer writes of a command (R12).  It holds at most one write per
target, so "no two writes in `E` target the same state" (spec/40_commands_common.md R134) by its
form. -/
structure Effects where
  /-- `MemWrite(a, n, v)` as the pair of `a` and `v`. -/
  mem : Option (Nat × List Byte) := Option.none
  len : Option Half := Option.none
  sum : Option Half := Option.none
  csum : Option Half := Option.none
  rxSeq : Option Byte := Option.none
  rxKind : Option Byte := Option.none
  rxLen : Option Half := Option.none
  rxCsum : Option Half := Option.none
deriving DecidableEq, Repr

/-- The outcome `(E, ok, err)` of a command (R12). -/
structure CmdOutcome where
  effects : Effects
  ok : Bool
  err : CmdErr
deriving DecidableEq, Repr

/-- `raise CmdError(code)`: outcome `({}, 0, code)` (R12).  This is the CFE's one form of an
exception: no trap entry, nothing saved but the code (spec/60_exceptions.md R245, R246). -/
def raise (code : CmdErr) : CmdOutcome := ⟨{}, false, code⟩

/-- `finish(E)`: outcome `(E, 1, 0)` (R12). -/
def finish (E : Effects) : CmdOutcome := ⟨E, true, .none⟩

/-- `finishVerdict(E, code)`: outcome `(E, 0, code)` (R12; only CSUM_VERIFY uses it). -/
def finishVerdict (E : Effects) (code : CmdErr) : CmdOutcome := ⟨E, false, code⟩

/-- The buffer after the memory write of `E`, if it has one. -/
def applyMem (w : Option (Nat × List Byte)) (m : Memory) : Memory :=
  match w with
  | Option.none => m
  | some (a, bs) => Memory.writeBytes m a bs

/-- `apply E` (spec/40_commands_common.md R134). -/
def applyEffects (E : Effects) (s : State) : State :=
  { s with
    fb := applyMem E.mem s.fb
    len := E.len.getD s.len
    sum := E.sum.getD s.sum
    csum := E.csum.getD s.csum
    rxSeq := E.rxSeq.getD s.rxSeq
    rxKind := E.rxKind.getD s.rxKind
    rxLen := E.rxLen.getD s.rxLen
    rxCsum := E.rxCsum.getD s.rxCsum }

/-- Completion with a given outcome, one atomic step (spec/40_commands_common.md R134, R135). -/
def complete (o : CmdOutcome) (s : State) : State :=
  completionFlags o.ok o.err (applyEffects o.effects s)

/-! ## Writes by the host, and reset -/

/-- A legal write dropped because a command is pending: "it changes nothing except `werr <- 1`"
(spec/20_memory.md R78). -/
def dropWrite (s : State) : State := { s with werr := true }

/-- A write that applies only while no command is pending (spec/20_memory.md R78). -/
def unlessPending (apply : State → State) (s : State) : State :=
  match s.pending with
  | Option.none => apply s
  | some _ => dropWrite s

/-- Issue of the word `w` (spec/40_commands_common.md R130). -/
def issue (w : Word) (s : State) : State :=
  unlessPending (fun s => { s with pending := some w, done := false }) s

/-- The reset step (spec/70_reset_and_hazards.md R270).  The buffer "is NOT written"; the parameters,
the schedule and the responses are no state of the CFE and stay (log 8). -/
def resetStep (s : State) : State :=
  { State.powerOn s.params s.fb with moves := s.moves, responses := s.responses }

end Sys2Proof.Machine
end

