-- ==== Sys2Proof/Machine/Operands.lean ====
section
/-! DEFINITION. The operands of the commands: byte order (spec/20_memory.md R73), the operand fields
(spec/30_encoding.md R102), the bytes a command reads (spec/20_memory.md R85) and the range checks
(spec/60_exceptions.md R232). -/

namespace Sys2Proof.Machine

open Sys2Proof

/-- `h >> 8`, the byte a big-endian value puts first (R73 item 1). -/
def hiByte (h : Half) : Byte := h.extractLsb' 8 8

/-- `h & 0xFF`, the byte a big-endian value puts second (R73 item 1). -/
def loByte (h : Half) : Byte := h.extractLsb' 0 8

/-- The 16-bit value of two bytes, the first one high: `(hi << 8) | lo`. -/
def halfOf (hi lo : Byte) : Half := hi ++ lo

/-- Byte `i` of a byte sequence (spec/00_scope.md R11). -/
def byteAt (b : List Byte) (i : Nat) : Byte := b.getD i 0#8

/-- `be16(b, i) = (b[i] << 8) | b[i+1]` (spec/00_scope.md R11). -/
def be16 (b : List Byte) (i : Nat) : Half := halfOf (byteAt b i) (byteAt b (i + 1))

/-- The wire byte of SEQ, `zext_8(SEQ)` (R102). -/
def seqByte (seq : BitVec 1) : Byte := seq.zeroExtend 8

/-- The wire byte of KIND, `zext_8(KIND)` (R102). -/
def kindByte (kind : BitVec 2) : Byte := kind.zeroExtend 8

/-- `MemRead(0, n)`, the input of CSUM_COMPUTE, CSUM_VERIFY and FRAME_DECODE (R85). -/
def inputBytes (fb : Memory) (n : Nat) : List Byte := Memory.readBytes fb 0 n

/-- `MemRead(6, n)`, the payload of FRAME_ENCODE (R85, spec/30_encoding.md R110). -/
def payloadBytes (fb : Memory) (n : Nat) : List Byte :=
  Memory.readBytes fb Config.headerBytes n

/-- The buffer index FRAME_ENCODE stores its header at (R85: `MemWrite(0, 6, header)`). -/
def headerIndex : Nat := 0

/-- `LEN > P_BUF_BYTES` gives RANGE (R232). -/
def inputOutOfRange (p : Params) (len : Half) : Bool := decide (Config.bufBytes p < len.toNat)

/-- `LEN > P_MAX_PAYLOAD` gives RANGE (R232). -/
def payloadOutOfRange (p : Params) (len : Half) : Bool := decide (p.maxPayload.val < len.toNat)

end Sys2Proof.Machine
end

