-- ==== Sys2Proof/Machine/Bus.lean ====
section
/-! DEFINITION. The host's side: the register map (spec/10_state.md R33 to R45), aperture decoding and
the bus rules (spec/20_memory.md R70 to R78), and one host step (R70). -/

namespace Sys2Proof.Machine

open Sys2Proof

/-- The eight registers (spec/10_state.md R33). -/
inductive Reg where
  | cmd
  | status
  | ctrl
  | len
  | result
  | rxHdr
  | rxCsum
  | cfg
deriving DecidableEq, Repr

/-- What an aperture offset names (spec/20_memory.md R72). -/
inductive Region where
  | register (r : Reg)
  | buffer (index : Nat)
  | reserved
deriving DecidableEq, Repr

/-- The register with number `n = off >> 2` (spec/10_state.md R33). -/
def regAt (n : Nat) : Reg :=
  match n with
  | 0 => .cmd
  | 1 => .status
  | 2 => .ctrl
  | 3 => .len
  | 4 => .result
  | 5 => .rxHdr
  | 6 => .rxCsum
  | _ => .cfg

/-- Aperture decoding (spec/20_memory.md R72). -/
def regionOf (p : Params) (off : Offset) : Region :=
  if off.toNat < Config.registerEnd then .register (regAt (off.toNat / 4))
  else if Config.bufferBase ≤ off.toNat ∧ off.toNat < Config.bufferBase + Config.bufBytes p then
    .buffer (off.toNat - Config.bufferBase)
  else .reserved

/-- CFG: BUF_BYTES above MAX_PAYLOAD (spec/10_state.md R44). -/
def cfgWord (p : Params) : Word :=
  BitVec.ofNat 16 (Config.bufBytes p) ++ BitVec.ofNat 16 p.maxPayload.val

/-- The value a register reads as (spec/10_state.md R34 to R44); no read has an effect
(spec/20_memory.md R77). -/
def readReg (r : Reg) (s : State) : Word :=
  match r with
  | .cmd => 0x00000000#32
  | .status => statusWord s
  | .ctrl => (BitVec.ofBool s.strict ++ BitVec.ofBool s.ie).zeroExtend 32
  | .len => s.len.zeroExtend 32
  | .result => s.sum ++ s.csum
  | .rxHdr => s.rxSeq ++ s.rxKind ++ s.rxLen
  | .rxCsum => s.rxCsum.zeroExtend 32
  | .cfg => cfgWord s.params

/-- `ie <- w[0]; strict <- w[1]` (spec/10_state.md R37). -/
def writeCtrl (w : Word) (s : State) : State :=
  { s with ie := w.getLsbD 0, strict := w.getLsbD 1 }

/-- `len <- w[15:0]` (spec/10_state.md R38). -/
def writeLen (w : Word) (s : State) : State := { s with len := w.extractLsb' 0 16 }

/-- `FB[i] <- w[7:0]` (spec/10_state.md R43). -/
def writeByte (i : Nat) (w : Word) (s : State) : State :=
  { s with fb := Memory.write s.fb i (w.extractLsb' 0 8) }

/-- A legal write of `w` to a register: CMD issues (spec/40_commands_common.md R130), STATUS is W1C at
any time (spec/10_state.md R36), CTRL and LEN are dropped while a command is pending
(spec/20_memory.md R78), and the read-only registers ignore it (spec/10_state.md R45). -/
def writeReg (r : Reg) (w : Word) (s : State) : State :=
  match r with
  | .cmd => issue w s
  | .status => clearStatus w s
  | .ctrl => unlessPending (writeCtrl w) s
  | .len => unlessPending (writeLen w) s
  | .result => s
  | .rxHdr => s
  | .rxCsum => s
  | .cfg => s

/-- `busError()` (spec/20_memory.md R76). -/
def busError : BusResponse := ⟨0x00000000#32, true⟩

/-- A normal response.  A write's carries rdata 0 (log 5, from the vectors V-BUS-11 to V-BUS-13). -/
def normalResponse (rdata : Word) : BusResponse := ⟨rdata, false⟩

/-- A register takes an aligned 4-byte access (spec/20_memory.md R74). -/
def registerAccessOk (t : Txn) : Bool := decide (t.size = 4) && decide (t.off.toNat % 4 = 0)

/-- A buffer byte takes a 1-byte access (spec/20_memory.md R74). -/
def bufferAccessOk (t : Txn) : Bool := decide (t.size = 1)

/-- One transaction: the state after it and its response (spec/20_memory.md R70, R72, R74 to R78). -/
def busTransaction (t : Txn) (s : State) : State × BusResponse :=
  match regionOf s.params t.off with
  | .register r =>
      if registerAccessOk t then
        if t.we then (writeReg r t.wdata s, normalResponse 0#32)
        else (s, normalResponse (readReg r s))
      else (s, busError)
  | .buffer i =>
      if bufferAccessOk t then
        if t.we then (unlessPending (writeByte i t.wdata) s, normalResponse 0#32)
        else (s, normalResponse ((Memory.read s.fb i).zeroExtend 32))
      else (s, busError)
  | .reserved => (s, busError)

/-- A host step: the transaction, with its response added to the responses given (R70; log 2). -/
def hostStep (t : Txn) (s : State) : State :=
  let r := busTransaction t s
  { r.1 with responses := r.1.responses ++ [r.2] }

end Sys2Proof.Machine
end

