-- ==== Sys2Proof/Machine/Checksum.lean ====
section
/-! DEFINITION. The checksum arithmetic (spec/41_checksum.md section 1) and the commands CSUM_COMPUTE
(R170) and CSUM_VERIFY (R175). -/

namespace Sys2Proof.Machine

open Sys2Proof

/-- `pad(b)`: one zero byte appended when the byte count is odd (R161). -/
def pad (b : List Byte) : List Byte := if b.length % 2 = 1 then b ++ [0x00#8] else b

/-- The 16-bit big-endian words of a byte sequence, in order (R160).  A last byte without a partner is
read with the pad byte; on a padded sequence there is none. -/
def pairWords : List Byte → List Half
  | [] => []
  | [hi] => [halfOf hi 0x00#8]
  | hi :: lo :: rest => halfOf hi lo :: pairWords rest

/-- `word(b, 0), …, word(b, m-1)` (R160, R161). -/
def words (b : List Byte) : List Half := pairWords (pad b)

/-- The sum of the words "over naturals, no width limit" (R162). -/
def rawSum (b : List Byte) : Nat := ((words b).map BitVec.toNat).sum

/-- At most `fuel` rounds of the end-around carry: the low 16 bits plus the carry bits. -/
def foldRounds : Nat → Nat → Nat
  | 0, T => T
  | fuel + 1, T => if T / 0x10000 = 0 then T else foldRounds fuel (T % 0x10000 + T / 0x10000)

/-- `fold(T)` (R162).  "each step with `T ≥ 0x10000` strictly decreases `T`" (R163), so `T` rounds are
never too few (log 13). -/
def fold (T : Nat) : Nat := foldRounds T T

/-- `onesSum(b)`, the single-fold form (R162, R164).  "`onesSum(b)` is a 16-bit value". -/
def onesSum (b : List Byte) : Half := BitVec.ofNat 16 (fold (rawSum b))

/-- One's-complement addition, `a ⊕ b := fold(a + b)` (R165). -/
def onesAdd (a b : Half) : Half := BitVec.ofNat 16 (fold (a.toNat + b.toNat))

/-- `checksum(b) := ~onesSum(b) & 0xFFFF` (R166). -/
def checksum (b : List Byte) : Half := ~~~ onesSum b

/-- `verifies(b) := (onesSum(b) = 0xFFFF)` (R167). -/
def verifies (b : List Byte) : Bool := decide (onesSum b = 0xFFFF#16)

/-- The writes of both checksum commands: `sum <- S, csum <- ~S & 0xFFFF` (R170, R175). -/
def sumEffects (S : Half) : Effects := { sum := some S, csum := some (~~~ S) }

/-- `exec(CSUM_COMPUTE, len, strict, fb)` (R170). -/
def csumComputeOutcome (p : Params) (len : Half) (fb : Memory) : CmdOutcome :=
  if inputOutOfRange p len then raise .range
  else finish (sumEffects (onesSum (inputBytes fb len.toNat)))

/-- `exec(CSUM_VERIFY, len, strict, fb)` (R175). -/
def csumVerifyOutcome (p : Params) (len : Half) (fb : Memory) : CmdOutcome :=
  if inputOutOfRange p len then raise .range
  else
    let S := onesSum (inputBytes fb len.toNat)
    if S = 0xFFFF#16 then finish (sumEffects S)
    else finishVerdict (sumEffects S) .checksum

/-- Completion of CSUM_COMPUTE (R170, spec/40_commands_common.md R134). -/
def execCsumCompute (s : State) : Host.Outcome State Fault Refusal :=
  .next (complete (csumComputeOutcome s.params s.len s.fb) s)

/-- Completion of CSUM_VERIFY (R175, spec/40_commands_common.md R134). -/
def execCsumVerify (s : State) : Host.Outcome State Fault Refusal :=
  .next (complete (csumVerifyOutcome s.params s.len s.fb) s)

end Sys2Proof.Machine
end

