-- ==== Sys2Proof/Machine/Common.lean ====
section
/-! DEFINITION. NOP and the illegal command (spec/40_commands_common.md R140, R141). -/

namespace Sys2Proof.Machine

open Sys2Proof

/-- Completion of NOP: `finish({})` (R140, R134). -/
def execNop (s : State) : Host.Outcome State Fault Refusal :=
  .next (complete (finish {}) s)

/-- Completion of an illegal word: `raise CmdError(ILLEGAL)` (R141, R134).  No constructor of `Instr`
stands for it; the engine step calls it where the decoder answers ILLEGAL. -/
def execIllegal (s : State) : Host.Outcome State Fault Refusal :=
  .next (complete (raise .illegal) s)

end Sys2Proof.Machine
end

