-- ==== Sys2Proof/Machine/Framer.lean ====
section
/-! DEFINITION. The packet codec (spec/42_framer.md): frame construction (R190), well-formedness
(R191), and the commands FRAME_ENCODE (R195) and FRAME_DECODE (R205). -/

namespace Sys2Proof.Machine

open Sys2Proof

/-- `pre(s, k, p) := [s, k, len(p) >> 8, len(p) & 0xFF]` (R190). -/
def preHeader (s k : Byte) (p : List Byte) : List Byte :=
  let n := BitVec.ofNat 16 p.length
  [s, k, hiByte n, loByte n]

/-- `zeroed(s, k, p) := pre(s, k, p) ++ [0x00, 0x00] ++ p` (R190). -/
def zeroedFrame (s k : Byte) (p : List Byte) : List Byte :=
  preHeader s k p ++ [0x00#8, 0x00#8] ++ p

/-- The header `pre(s, k, p) ++ [c >> 8, c & 0xFF]` with `c = checksum(zeroed(s, k, p))` (R190). -/
def frameHeader (s k : Byte) (p : List Byte) : List Byte :=
  let c := checksum (zeroedFrame s k p)
  preHeader s k p ++ [hiByte c, loByte c]

/-- `frame(s, k, p)` (R190). -/
def frame (s k : Byte) (p : List Byte) : List Byte := frameHeader s k p ++ p

/-- `wf(f) := n ≥ 6 ∧ be16(f, 2) = n - 6 ∧ verifies(f)` (R191). -/
def frameWf (f : List Byte) : Bool :=
  decide (Config.headerBytes ≤ f.length)
    && decide ((be16 f 2).toNat = f.length - Config.headerBytes) && verifies f

/-- The STRICT extension: `f[0] ≤ 1 ∧ f[1] ≤ 3` (R191). -/
def fieldsInRange (f : List Byte) : Bool :=
  decide ((byteAt f 0).toNat ≤ 1) && decide ((byteAt f 1).toNat ≤ 3)

/-- `exec(FRAME_ENCODE(seq, kind), len, strict, fb)` (R195). -/
def frameEncodeOutcome (seq : BitVec 1) (kind : BitVec 2) (p : Params) (len : Half) (fb : Memory) :
    CmdOutcome :=
  if payloadOutOfRange p len then raise .range
  else
    let payload := payloadBytes fb len.toNat
    finish
      { mem := some (headerIndex, frameHeader (seqByte seq) (kindByte kind) payload)
        len := some (BitVec.ofNat 16 (Config.headerBytes + len.toNat)) }

/-- `exec(FRAME_DECODE, len, strict, fb)` (R205), its checks in the order of R192. -/
def frameDecodeOutcome (p : Params) (len : Half) (strict : Bool) (fb : Memory) : CmdOutcome :=
  if inputOutOfRange p len then raise .range
  else
    let n := len.toNat
    let f := inputBytes fb n
    if n < Config.headerBytes then raise .short
    else if (be16 f 2).toNat ≠ n - Config.headerBytes then raise .length
    else if onesSum f ≠ 0xFFFF#16 then raise .checksum
    else if strict && !fieldsInRange f then raise .field
    else finish
      { rxSeq := some (byteAt f 0)
        rxKind := some (byteAt f 1)
        rxLen := some (be16 f 2)
        rxCsum := some (be16 f 4) }

/-- Completion of FRAME_ENCODE (R195, spec/40_commands_common.md R134). -/
def execFrameEncode (seq : BitVec 1) (kind : BitVec 2) (s : State) :
    Host.Outcome State Fault Refusal :=
  .next (complete (frameEncodeOutcome seq kind s.params s.len s.fb) s)

/-- Completion of FRAME_DECODE (R205, spec/40_commands_common.md R134). -/
def execFrameDecode (s : State) : Host.Outcome State Fault Refusal :=
  .next (complete (frameDecodeOutcome s.params s.len s.strict s.fb) s)

end Sys2Proof.Machine
end

