-- ==== Sys2Proof/Machine/Dispatch.lean ====
section
/-! DEFINITION. The completion of each command, one arm per constructor of Instr
(spec/40_commands_common.md R134: "`exec` is the per-command rule"). -/

namespace Sys2Proof.Machine

open Sys2Proof

def exec (i : Instr) (s : State) : Host.Outcome State Fault Refusal :=
  match i with
  | .nop => Sys2Proof.Machine.execNop s
  | .csumCompute => Sys2Proof.Machine.execCsumCompute s
  | .csumVerify => Sys2Proof.Machine.execCsumVerify s
  | .frameEncode seq kind => Sys2Proof.Machine.execFrameEncode seq kind s
  | .frameDecode => Sys2Proof.Machine.execFrameDecode s

end Sys2Proof.Machine
end

