-- ==== Sys2Proof/Machine/Engine.lean ====
section
/-! DEFINITION. The engine's step, and the step each entry of the schedule names
(spec/00_scope.md R9). -/

namespace Sys2Proof.Machine

open Sys2Proof

/-- The engine step, "enabled if and only if `pending ≠ none`" (spec/40_commands_common.md R131): decode
the pending word and complete it (R134). -/
def engineStep (s : State) : Host.Outcome State Fault Refusal :=
  match s.pending with
  | Option.none => .refused .engineStepNotEnabled
  | some w =>
      match decodeCmd w with
      | .ok i => exec i s
      | .error _ => execIllegal s

/-- The step an entry of the schedule names (spec/00_scope.md R9). -/
def takeMove (m : Move) (s : State) : Host.Outcome State Fault Refusal :=
  match m with
  | .host t => .next (hostStep t s)
  | .engine => engineStep s
  | .reset => .next (resetStep s)

/-- The state in which the engine is about to complete the command word `w` (log 7).  As an issue does
(spec/40_commands_common.md R130), it sets `pending` and clears `done`. -/
def aboutToComplete (w : Word) (s : State) : State :=
  { s with pending := some w, done := false, moves := .engine :: s.moves }

end Sys2Proof.Machine
end

