-- ==== Sys2Proof/Machine/Step.lean ====
section
/-! DEFINITION. One step of a run (spec/00_scope.md R9): a host transaction, the engine's completion
or a reset, as the schedule says. -/

namespace Sys2Proof.Machine

open Sys2Proof

/-- One step.  When the schedule is used up, the engine completes a pending command (an engine step
"that stays enabled is eventually taken", spec/70_reset_and_hazards.md R285), and an idle CFE "keeps all
state" (spec/60_exceptions.md R255; log 1). -/
def step (s : State) : Host.Outcome State Fault Refusal :=
  match s.moves with
  | [] => if busy s then engineStep s else .next s
  | m :: rest => takeMove m { s with moves := rest }

/-- `s` with the command word whose low `nbits` bits are `w` issued and the engine's step next, so that
the very next step runs it (log 7). -/
def State.withFetchWord (s : State) (nbits w : Nat) : State :=
  aboutToComplete (.ofNat 32 (w % 2 ^ nbits)) s

end Sys2Proof.Machine
end

