-- ==== Sys2Proof/Machine/HostSyntax.lean ====
section
/-! DEFINITION. The host-program statements (spec/30_encoding.md R114) and the steps they stand for.

`expect` makes no transaction.  `wait` polls STATUS until BUSY = 0; how often depends on when the engine
takes its step, so its schedule is an argument (log 17). -/

namespace Sys2Proof.Machine

open Sys2Proof

/-- The register names of R114 as offsets (spec/10_state.md R33). -/
def regOffset : Reg → Offset
  | .cmd => 0x00#17
  | .status => 0x04#17
  | .ctrl => 0x08#17
  | .len => 0x0C#17
  | .result => 0x10#17
  | .rxHdr => 0x14#17
  | .rxCsum => 0x18#17
  | .cfg => 0x1C#17

/-- `wr <reg>, <value>`: a 4-byte write (R114). -/
def wrTxn (r : Reg) (v : Word) : Txn := ⟨true, 4, regOffset r, v⟩

/-- `rd <reg>`: a 4-byte read (R114). -/
def rdTxn (r : Reg) : Txn := ⟨false, 4, regOffset r, 0#32⟩

/-- `wb <off>, <byte>`: a 1-byte write to bus offset `0x10000 + <off>` (R114). -/
def wbTxn (i : Nat) (b : Byte) : Txn := ⟨true, 1, .ofNat 17 (Config.bufferBase + i), b.zeroExtend 32⟩

/-- `rb <off>`: a 1-byte read of bus offset `0x10000 + <off>` (R114). -/
def rbTxn (i : Nat) : Txn := ⟨false, 1, .ofNat 17 (Config.bufferBase + i), 0#32⟩

/-- `fill <off>, <b0> <b1> …`: one `wb` per byte, offsets rising (R114). -/
def fillTxns (i : Nat) : List Byte → List Txn
  | [] => []
  | b :: bs => wbTxn i b :: fillTxns (i + 1) bs

/-- A statement of a host program (R114). -/
inductive HostStmt where
  | wr (r : Reg) (v : Word)
  | rd (r : Reg)
  | wb (i : Nat) (b : Byte)
  | rb (i : Nat)
  /-- An assertion of the test harness; "no bus transaction". -/
  | expect
  | issue (w : Word)
  /-- `wait` with its schedule: `some k` is `k` polls that read BUSY = 1, the engine's step, and the
  poll that ends the loop; `none` is a wait with nothing pending, which ends at its first poll. -/
  | wait (polls : Option Nat)
  | fill (i : Nat) (bs : List Byte)
  | setlen (n : Word)
  | ack
  /-- `run <command>`: `issue` and then `wait`. -/
  | run (w : Word) (polls : Nat)
deriving DecidableEq, Repr

/-- The steps of a `wait` (R114, spec/70_reset_and_hazards.md R285). -/
def waitMoves : Option Nat → List Move
  | Option.none => [.host (rdTxn .status)]
  | some k => List.replicate k (.host (rdTxn .status)) ++ [.engine, .host (rdTxn .status)]

/-- The steps a statement expands to (R114). -/
def stmtMoves : HostStmt → List Move
  | .wr r v => [.host (wrTxn r v)]
  | .rd r => [.host (rdTxn r)]
  | .wb i b => [.host (wbTxn i b)]
  | .rb i => [.host (rbTxn i)]
  | .expect => []
  | .issue w => [.host (wrTxn .cmd w)]
  | .wait polls => waitMoves polls
  | .fill i bs => (fillTxns i bs).map .host
  | .setlen n => [.host (wrTxn .len n)]
  | .ack => [.host (wrTxn .status 0x0000000A#32)]
  | .run w polls => .host (wrTxn .cmd w) :: waitMoves (some polls)

/-- The schedule of a program. -/
def programMoves (p : List HostStmt) : List Move := p.flatMap stmtMoves

/-- A host program's run has ended "when the host has made its last transaction and `pending = none`"
(spec/70_reset_and_hazards.md R291). -/
def runEnded (s : State) : Bool :=
  !busy s && !(s.moves.any (fun m => match m with
    | .host _ => true
    | .engine => false
    | .reset => false))

end Sys2Proof.Machine
end

