-- ==== Sys2Proof/Machine/Observation.lean ====
section
/-! DEFINITION. The observation of a run (spec/70_reset_and_hazards.md R291). -/

namespace Sys2Proof.Machine

open Sys2Proof

/-- "The observation of a run is the sequence of values its reads returned, and the final state of rule
R32" (R291). -/
structure Observation where
  /-- What each read returned, oldest first: "the value, or an error response" (R290; log 20).  No
  write's response is in it. -/
  reads : List BusResponse
  /-- The final state, the model's own schedule and responses emptied. -/
  final : State
deriving DecidableEq, Repr

/-- The state of spec/10_state.md R32, beside the parameters, which never change. -/
def archState (s : State) : State := { s with moves := [], responses := [] }

/-- What the next step of the schedule returns to a read, if that step is one. -/
def readReturned (s : State) : List BusResponse :=
  match s.moves with
  | .host t :: _ => if t.we then [] else [(busTransaction t s).2]
  | .engine :: _ => []
  | .reset :: _ => []
  | [] => []

/-- The observation of the run from `s`, if the run ends within `fuel` steps. -/
def observeWithin : Nat → State → Option Observation
  | 0, s => if runEnded s then some ⟨[], archState s⟩ else Option.none
  | fuel + 1, s =>
      if runEnded s then some ⟨[], archState s⟩
      else match step s with
        | .next t =>
            match observeWithin fuel t with
            | some o => some { o with reads := readReturned s ++ o.reads }
            | Option.none => Option.none
        | .fault _ => Option.none
        | .refused _ => Option.none

/-- The observation of the run from `s`.  Each step takes an entry off the schedule, and one more
completes what is then pending; a schedule that is no run (log 6) has no observation. -/
def observation (s : State) : Option Observation := observeWithin (s.moves.length + 1) s

end Sys2Proof.Machine
end

