-- ==== Sys2Proof/Safety.lean ====
section
/-! DEFINITION. What every state of a run satisfies, in the terms the statements use. -/

namespace Sys2Proof.Safety

open Sys2Proof Sys2Proof.Machine

/-- A register access that spec/20_memory.md R74 calls legal: 4 bytes at an aligned offset below 0x20. -/
abbrev LegalRegisterAccess (t : Txn) : Prop :=
  t.off.toNat < 0x20 ∧ t.size = 4 ∧ t.off.toNat % 4 = 0

/-- A buffer access that spec/20_memory.md R74 calls legal: 1 byte at an offset of the buffer window. -/
abbrev LegalBufferAccess (p : Params) (t : Txn) : Prop :=
  0x10000 ≤ t.off.toNat ∧ t.off.toNat < 0x10000 + (p.maxPayload.val + 6) ∧ t.size = 1

/-- A legal write to CMD, CTRL, LEN or a buffer byte: the writes a pending command makes the CFE drop
(spec/20_memory.md R78). -/
abbrev DroppableWrite (p : Params) (t : Txn) : Prop :=
  t.we = true ∧
    ((LegalRegisterAccess t ∧ (t.off = 0x00#17 ∨ t.off = 0x08#17 ∨ t.off = 0x0C#17)) ∨
      LegalBufferAccess p t)

/-- `k` steps of the CFE, stopping at the first refusal (no step faults). -/
def runSteps : Nat → State → Host.Outcome State Fault Refusal
  | 0, s => .next s
  | k + 1, s =>
      match step s with
      | .next t => runSteps k t
      | .fault r => .fault r
      | .refused r => .refused r

/-- The invariant of the CFE. -/
structure Inv (s : State) : Prop where
  /-- The buffer's list is in canonical form (spec/10_state.md R43). -/
  bufferCanonical : Memory.wf s.fb = true
  /-- No byte is held outside `FB[0..P_BUF_BYTES)` (spec/10_state.md R43, spec/20_memory.md R85). -/
  bufferInRange : Memory.below (Config.bufBytes s.params) s.fb = true
  /-- "DONE is already 0 while a command is pending" (spec/10_state.md R36). -/
  doneClearWhilePending : s.pending.isSome = true → s.done = false
  /-- ERR is "0 when OK = 1" (spec/10_state.md R35). -/
  noErrorWhenOk : s.ok = true → s.err = .none
  /-- After a completion ERR is "0 exactly when ok = 1" (spec/40_commands_common.md R134). -/
  verdictWhenDone : s.done = true → (s.ok = true ↔ s.err = .none)
  /-- CSUM is the complement of SUM, but for the reset value (spec/10_state.md R39). -/
  resultComplement : s.csum = ~~~ s.sum ∨ (s.sum = 0#16 ∧ s.csum = 0#16)
  /-- "a well-formed decoded frame always has `length ≤ P_MAX_PAYLOAD`" (spec/30_encoding.md R109). -/
  rxLenBounded : s.rxLen.toNat ≤ s.params.maxPayload.val

end Sys2Proof.Safety
end

