-- ==== Sys2Proof/Certificates/Slice0/Obligations.lean ====
section
/-! DEFINITION. The statements for the provers.  Each docstring names the rule of spec/ it formalises,
or says that it rests on a choice of the model (log n is notes/assumptions/n.md). -/

open Sys2Proof Sys2Proof.Machine Sys2Proof.Safety

/-! ## Encoding -/

/-- R104: the decoder reads a command from exactly its own word, and the words are those of R104. -/
def Obligations.DecodeAndEncodeAgree : Prop :=
  (∀ (w : Word) (i : Instr), decodeCmd w = .ok i ↔ w = encode i) ∧
  encode .nop = 0x00000000#32 ∧ encode .csumCompute = 0x00000001#32 ∧
  encode .csumVerify = 0x00000002#32 ∧ encode .frameDecode = 0x00000004#32 ∧
  ∀ (seq : BitVec 1) (kind : BitVec 2),
    (encode (.frameEncode seq kind)).toNat = 3 + 16 * seq.toNat + 32 * kind.toNat

/-- R104, R101 (a sanity statement): words written out bit by bit decode to their commands. -/
def Obligations.TableWordsDecode : Prop :=
  decodeCmd 0b00000000000000000000000000000000#32 = .ok .nop ∧
  decodeCmd 0b00000000000000000000000000000001#32 = .ok .csumCompute ∧
  decodeCmd 0b00000000000000000000000000000010#32 = .ok .csumVerify ∧
  decodeCmd 0b00000000000000000000000000000011#32 = .ok (.frameEncode 0 0) ∧
  decodeCmd 0b00000000000000000000000000110011#32 = .ok (.frameEncode 1 1) ∧
  decodeCmd 0b00000000000000000000000001000011#32 = .ok (.frameEncode 0 2) ∧
  decodeCmd 0b00000000000000000000000001110011#32 = .ok (.frameEncode 1 3) ∧
  decodeCmd 0b00000000000000000000000000000100#32 = .ok .frameDecode

/-- R103: a word is illegal exactly when one of the three conditions holds, and an illegal word that is
accepted is issued and completes with OK = 0, ERR = ILLEGAL and no other effect. -/
def Obligations.IllegalWordsAreIssuedAndFail : Prop :=
  ∀ w : Word,
    ((∃ r, decodeCmd w = .error r) ↔
      (5 ≤ (w.extractLsb' 0 4).toNat ∨ w.extractLsb' 7 25 ≠ 0#25 ∨
        (w.extractLsb' 0 4 ≠ 3#4 ∧ w.extractLsb' 4 3 ≠ 0#3))) ∧
    ((∃ r, decodeCmd w = .error r) → ∀ (s : State) (rest : List Move),
      s.pending = none → s.moves = .host ⟨true, 4, 0x00#17, w⟩ :: .engine :: rest →
      ∃ r : BusResponse, r.err = false ∧ runSteps 2 s = .next
        { s with ok := false, err := .illegal, done := true, pending := none, moves := rest,
                 responses := s.responses ++ [r] })

/-- R141: an illegal word completes with OK = 0, ERR = 0x6 and nothing else changed; 0x5 and 0x11 are
illegal, and STATUS then reads 0x62. -/
def Obligations.IllegalCommandCompletes : Prop :=
  (∃ r, decodeCmd 0x00000005#32 = .error r) ∧ (∃ r, decodeCmd 0x00000011#32 = .error r) ∧
  ∀ (s : State) (w : Word) (r : IllegalWord) (rest : List Move),
    s.pending = some w → decodeCmd w = .error r → s.moves = .engine :: rest →
    ∃ t, step s = .next t ∧
      t = { s with ok := false, err := .illegal, done := true, pending := none, moves := rest } ∧
      errCode t.err = 0x6#4 ∧ (s.werr = false → statusWord t = 0x00000062#32)

/-- R113: the assembler's words, and what it refuses. -/
def Obligations.AssemblerWordsAndRefusals : Prop :=
  assemble .nop = some 0x00000000#32 ∧ assemble .csumCompute = some 0x00000001#32 ∧
  assemble .csumVerify = some 0x00000002#32 ∧ assemble .frameDecode = some 0x00000004#32 ∧
  (∀ w, assemble (.rawWord w) = some w) ∧
  KindOperand.value .kindData = 0 ∧ KindOperand.value .kindAck = 1 ∧
  KindOperand.value .kindGet = 2 ∧ KindOperand.value .kindEnd = 3 ∧
  (∀ n, KindOperand.value (.number n) = n) ∧
  ∀ (seq : Nat) (kind : KindOperand),
    (seq ≤ 1 ∧ kind.value ≤ 3 →
      assemble (.frameEncode seq kind) = some (BitVec.ofNat 32 (3 + 16 * seq + 32 * kind.value))) ∧
    (¬ (seq ≤ 1 ∧ kind.value ≤ 3) → assemble (.frameEncode seq kind) = none)

/-! ## Steps -/

/-- R134: the engine's step runs the command the pending word decodes to.  That the engine takes its
step when the schedule is used up is the model's choice (log 1). -/
def Obligations.EngineStepRunsTheDecodedCommand : Prop :=
  ∀ (s : State) (w : Word) (i : Instr), s.pending = some w → decodeCmd w = .ok i →
    (∀ rest, s.moves = .engine :: rest → step s = exec i { s with moves := rest }) ∧
    (s.moves = [] → step s = exec i s)

/-- The model's interface (log 7): a command word placed by `withFetchWord` is run by the very next
step. -/
def Obligations.FetchedWordRunsNext : Prop :=
  ∀ (s : State) (w : Word) (i : Instr), decodeTableWord 32 w.toNat = some i →
    step (s.withFetchWord 32 w.toNat) = exec i { s with pending := some w, done := false }

/-- R131, with the model's choices of log 1 and log 6: an engine turn gives a next state if and only if
a command is pending, and is refused otherwise; an idle CFE with nothing scheduled keeps its state. -/
def Obligations.EngineStepNeedsAPendingCommand : Prop :=
  ∀ s : State,
    (∀ rest, s.moves = .engine :: rest →
      ((∃ t, step s = .next t) ↔ s.pending ≠ none) ∧
      (s.pending = none → step s = .refused .engineStepNotEnabled)) ∧
    (s.moves = [] → s.pending = none → step s = .next s)

/-- R285, over the model's finite schedules (log 1): a pending command is completed or discarded within
as many steps as the schedule is long, plus one; without a reset it is completed, and DONE is set. -/
def Obligations.PendingCommandEventuallyCompletes : Prop :=
  ∀ (s : State) (w : Word), s.pending = some w →
    (∃ k t, k ≤ s.moves.length + 1 ∧ runSteps k s = .next t ∧ t.pending = none) ∧
    (Move.reset ∉ s.moves →
      ∃ k t, k ≤ s.moves.length + 1 ∧ runSteps k s = .next t ∧ t.pending = none ∧ t.done = true)

/-- R46, R80: at most one command is pending and it is never replaced: it stays until the engine
completes it or a reset discards it, and a new one comes only from a CMD write. -/
def Obligations.PendingCommandIsNeverReplaced : Prop :=
  ∀ s t : State, step s = .next t →
    (∀ w, s.pending = some w → t.pending = some w ∨
      (t.pending = none ∧ t.done = true ∧ ∀ x rest, s.moves ≠ .host x :: rest) ∨
      (t.pending = none ∧ ∃ rest, s.moves = .reset :: rest)) ∧
    (∀ w, s.pending = none → t.pending = some w →
      t.done = false ∧ ∃ rest, s.moves = .host ⟨true, 4, 0x00#17, w⟩ :: rest)

/-! ## The host's transactions -/

/-- R130: issue, and the write dropped while a command is pending. -/
def Obligations.IssueLatchesTheWord : Prop :=
  ∀ (s : State) (w : Word) (rest : List Move), s.moves = .host ⟨true, 4, 0x00#17, w⟩ :: rest →
    ∃ r : BusResponse, r.err = false ∧
      (s.pending = none → step s = .next
        { s with pending := some w, done := false, moves := rest,
                 responses := s.responses ++ [r] }) ∧
      (s.pending ≠ none → step s = .next
        { s with werr := true, moves := rest, responses := s.responses ++ [r] })

/-- R36: a STATUS write clears DONE where bit 1 is set and WERR where bit 3 is set, and nothing else, also
while a command is pending; and then it changes only WERR. -/
def Obligations.StatusWriteClearsDoneAndWerr : Prop :=
  ∀ (s : State) (w : Word) (rest : List Move), s.moves = .host ⟨true, 4, 0x04#17, w⟩ :: rest →
    ∃ r : BusResponse, r.err = false ∧
      step s = .next
        { s with done := s.done && !w.getLsbD 1, werr := s.werr && !w.getLsbD 3, moves := rest,
                 responses := s.responses ++ [r] } ∧
      (Inv s → s.pending ≠ none → step s = .next
        { s with werr := s.werr && !w.getLsbD 3, moves := rest, responses := s.responses ++ [r] })

/-- R37, R38: writes to CTRL and LEN while no command is pending. -/
def Obligations.CtrlAndLenWrites : Prop :=
  ∀ (s : State) (w : Word) (rest : List Move), s.pending = none →
    (s.moves = .host ⟨true, 4, 0x08#17, w⟩ :: rest →
      ∃ r : BusResponse, r.err = false ∧ step s = .next
        { s with ie := decide (w.toNat % 2 = 1), strict := decide (w.toNat / 2 % 2 = 1),
                 moves := rest, responses := s.responses ++ [r] }) ∧
    (s.moves = .host ⟨true, 4, 0x0C#17, w⟩ :: rest →
      ∃ r : BusResponse, r.err = false ∧ step s = .next
        { s with len := BitVec.ofNat 16 w.toNat, moves := rest,
                 responses := s.responses ++ [r] })

/-- R33 to R44: an aligned 4-byte read of a register changes nothing and returns its fields at their
bits. -/
def Obligations.RegisterReadValues : Prop :=
  ∀ (s : State) (off : Offset) (d : Word) (rest : List Move),
    s.moves = .host ⟨false, 4, off, d⟩ :: rest → off.toNat < 0x20 → off.toNat % 4 = 0 →
    ∃ v : Word,
      step s = .next { s with moves := rest, responses := s.responses ++ [⟨v, false⟩] } ∧
      (off = 0x00#17 → v.toNat = 0) ∧
      (off = 0x04#17 → v.toNat = (errCode s.err).toNat * 16 + s.werr.toNat * 8 + s.ok.toNat * 4
        + s.done.toNat * 2 + s.pending.isSome.toNat) ∧
      (off = 0x08#17 → v.toNat = s.strict.toNat * 2 + s.ie.toNat) ∧
      (off = 0x0C#17 → v.toNat = s.len.toNat) ∧
      (off = 0x10#17 → v.toNat = s.sum.toNat * 65536 + s.csum.toNat) ∧
      (off = 0x14#17 → v.toNat
        = s.rxSeq.toNat * 16777216 + s.rxKind.toNat * 65536 + s.rxLen.toNat) ∧
      (off = 0x18#17 → v.toNat = s.rxCsum.toNat) ∧
      (off = 0x1C#17 → v.toNat = (s.params.maxPayload.val + 6) * 65536 + s.params.maxPayload.val)

/-- R43: a 1-byte read of the buffer window returns the byte zero-extended and changes nothing; a 1-byte
write while no command is pending stores `w[7:0]` and leaves every other byte and field. -/
def Obligations.BufferByteAccess : Prop :=
  ∀ (s : State) (we : Bool) (i : Nat) (off : Offset) (w : Word) (rest : List Move),
    s.moves = .host ⟨we, 1, off, w⟩ :: rest → off.toNat = 0x10000 + i →
    i < s.params.maxPayload.val + 6 →
    (we = false → ∃ v : Word, v.toNat = (Memory.read s.fb i).toNat ∧
      step s = .next { s with moves := rest, responses := s.responses ++ [⟨v, false⟩] }) ∧
    (we = true → s.pending = none → Inv s → ∃ (fb' : Memory) (r : BusResponse), r.err = false ∧
      step s = .next { s with fb := fb', moves := rest, responses := s.responses ++ [r] } ∧
      Memory.read fb' i = BitVec.ofNat 8 w.toNat ∧
      ∀ a, a ≠ i → Memory.read fb' a = Memory.read s.fb a)

/-- R74, R75, R76: a transaction that is not legal gets the error response and changes no state, whether
or not a command is pending; a legal one gets a normal response. -/
def Obligations.IllegalAccessesGetTheErrorResponse : Prop :=
  ∀ (s : State) (t : Txn) (rest : List Move), s.moves = .host t :: rest →
    (¬ (LegalRegisterAccess t ∨ LegalBufferAccess s.params t) →
      step s = .next
        { s with moves := rest, responses := s.responses ++ [⟨0x00000000#32, true⟩] }) ∧
    (LegalRegisterAccess t ∨ LegalBufferAccess s.params t →
      ∃ u r, step s = .next u ∧ u.responses = s.responses ++ [r] ∧ r.err = false)

/-- R77: reads have no side effects, a write to anything but CMD is idempotent, and a CMD write is not: it
issues once, and the second is dropped. -/
def Obligations.ReadsAndIdempotentWrites : Prop :=
  ∀ (s : State) (t : Txn),
    (t.we = false → (busTransaction t s).1 = s) ∧
    (Inv s → t.off ≠ 0x00#17 →
      (busTransaction t (busTransaction t s).1).1 = (busTransaction t s).1) ∧
    (s.pending = none → ∀ w, t = ⟨true, 4, 0x00#17, w⟩ →
      (busTransaction t s).1 = { s with pending := some w, done := false } ∧
      (busTransaction t (busTransaction t s).1).1
        = { s with pending := some w, done := false, werr := true })

/-- R78: while a command is pending, a legal write to CMD, CTRL, LEN or a buffer byte changes nothing but
WERR, a STATUS write is applied, a write to a read-only register is ignored, and reads return the
current state; all with a normal response. -/
def Obligations.WritesWhilePendingAreDropped : Prop :=
  ∀ (s : State) (w : Word) (t : Txn) (rest : List Move),
    s.pending = some w → s.moves = .host t :: rest →
    LegalRegisterAccess t ∨ LegalBufferAccess s.params t →
    ∃ r : BusResponse, r.err = false ∧
      (DroppableWrite s.params t → step s = .next
        { s with werr := true, moves := rest, responses := s.responses ++ [r] }) ∧
      (t.we = true → t.off = 0x04#17 → step s = .next
        { s with done := s.done && !t.wdata.getLsbD 1, werr := s.werr && !t.wdata.getLsbD 3,
                 moves := rest, responses := s.responses ++ [r] }) ∧
      (t.we = true → 0x10 ≤ t.off.toNat → t.off.toNat < 0x20 → step s = .next
        { s with moves := rest, responses := s.responses ++ [r] }) ∧
      (t.we = false →
        step s = .next { s with moves := rest, responses := s.responses ++ [r] } ∧
        (t.off.toNat < 0x20 → r.rdata = readReg (regAt (t.off.toNat / 4)) s) ∧
        (0x10000 ≤ t.off.toNat →
          r.rdata.toNat = (Memory.read s.fb (t.off.toNat - 0x10000)).toNat))

/-- R45: a write to RESULT, RX_HDR, RX_CSUM or CFG has no effect at any time and gets a normal
response. -/
def Obligations.ReadOnlyRegistersIgnoreWrites : Prop :=
  ∀ (s : State) (off : Offset) (w : Word) (rest : List Move),
    s.moves = .host ⟨true, 4, off, w⟩ :: rest →
    off = 0x10#17 ∨ off = 0x14#17 ∨ off = 0x18#17 ∨ off = 0x1C#17 →
    ∃ r : BusResponse, r.err = false ∧
      step s = .next { s with moves := rest, responses := s.responses ++ [r] }

/-! ## Commands: results -/

/-- R134, R135: every command completes in every state: nothing is pending, DONE is 1, ERR is 0 exactly
when OK is 1, and WERR, CTRL, the parameters, the schedule and the responses are as before. -/
def Obligations.EveryCommandCompletes : Prop :=
  ∀ (i : Instr) (s : State), ∃ t, exec i s = .next t ∧ t.pending = none ∧ t.done = true ∧
    (t.ok = true ↔ t.err = .none) ∧ t.werr = s.werr ∧ t.ie = s.ie ∧ t.strict = s.strict ∧
    t.params = s.params ∧ t.moves = s.moves ∧ t.responses = s.responses

/-- R140: NOP completes with OK = 1 and nothing else changed; its word is 0x00000000 and a word with
OP = 0 and any other bit set is illegal; from reset it leaves STATUS = 0x06. -/
def Obligations.NopCompletesWithOk : Prop :=
  decodeCmd 0x00000000#32 = .ok .nop ∧
  (∀ w : Word, w.extractLsb' 0 4 = 0#4 → w ≠ 0#32 → ∃ r, decodeCmd w = .error r) ∧
  (∀ s : State, exec .nop s
    = .next { s with ok := true, err := .none, done := true, pending := none }) ∧
  ∀ (p : Params) (fb0 : Memory), ∃ t,
    runSteps 2 { State.powerOn p fb0 with
      moves := [.host ⟨true, 4, 0x00#17, 0x00000000#32⟩, .engine] } = .next t ∧
    statusWord t = 0x00000006#32

/-- R170: CSUM_COMPUTE, its range check, its result and its example. -/
def Obligations.CsumComputeResult : Prop :=
  decodeCmd 0x00000001#32 = .ok .csumCompute ∧
  (∀ s : State,
    (s.params.maxPayload.val + 6 < s.len.toNat → exec .csumCompute s = .next
      { s with ok := false, err := .range, done := true, pending := none }) ∧
    (s.len.toNat ≤ s.params.maxPayload.val + 6 → exec .csumCompute s = .next
      { s with
        sum := onesSum (Memory.readBytes s.fb 0 s.len.toNat)
        csum := ~~~ onesSum (Memory.readBytes s.fb 0 s.len.toNat)
        ok := true, err := .none, done := true, pending := none })) ∧
  ∀ s : State, s.len = 13#16 → 13 ≤ s.params.maxPayload.val + 6 →
    Memory.readBytes s.fb 0 13 = [0x48#8, 0x65#8, 0x6C#8, 0x6C#8, 0x6F#8, 0x2C#8, 0x20#8, 0x57#8,
      0x6F#8, 0x72#8, 0x6C#8, 0x64#8, 0x21#8] →
    ∃ t, exec .csumCompute s = .next t ∧ readReg .result t = 0x412CBED3#32 ∧
      (s.werr = false → statusWord t = 0x00000006#32)

/-- R175: CSUM_VERIFY, its range check, its two verdicts, both of which write RESULT, and its
examples. -/
def Obligations.CsumVerifyResult : Prop :=
  decodeCmd 0x00000002#32 = .ok .csumVerify ∧
  (∀ s : State,
    (s.params.maxPayload.val + 6 < s.len.toNat → exec .csumVerify s = .next
      { s with ok := false, err := .range, done := true, pending := none }) ∧
    (s.len.toNat ≤ s.params.maxPayload.val + 6 →
      onesSum (Memory.readBytes s.fb 0 s.len.toNat) = 0xFFFF#16 → exec .csumVerify s = .next
        { s with sum := 0xFFFF#16, csum := 0x0000#16,
                 ok := true, err := .none, done := true, pending := none }) ∧
    (s.len.toNat ≤ s.params.maxPayload.val + 6 →
      onesSum (Memory.readBytes s.fb 0 s.len.toNat) ≠ 0xFFFF#16 → exec .csumVerify s = .next
        { s with
          sum := onesSum (Memory.readBytes s.fb 0 s.len.toNat)
          csum := ~~~ onesSum (Memory.readBytes s.fb 0 s.len.toNat)
          ok := false, err := .checksum, done := true, pending := none })) ∧
  ∀ (s : State) (b : Byte), s.len = 19#16 → 19 ≤ s.params.maxPayload.val + 6 →
    Memory.readBytes s.fb 0 19 = [b, 0x00#8, 0x00#8, 0x0D#8, 0xBE#8, 0xC6#8, 0x48#8, 0x65#8,
      0x6C#8, 0x6C#8, 0x6F#8, 0x2C#8, 0x20#8, 0x57#8, 0x6F#8, 0x72#8, 0x6C#8, 0x64#8, 0x21#8] →
    ∃ t, exec .csumVerify s = .next t ∧
      (b = 0x00#8 → t.ok = true ∧ readReg .result t = 0xFFFF0000#32) ∧
      (b = 0x01#8 → t.ok = false ∧ errCode t.err = 0x3#4 ∧
        readReg .result t = 0x0100FEFF#32)

/-- R195: FRAME_ENCODE, its range check, the header it builds and its examples. -/
def Obligations.FrameEncodeResult : Prop :=
  (∀ (seq : BitVec 1) (kind : BitVec 2),
    decodeCmd (BitVec.ofNat 32 (3 + 16 * seq.toNat + 32 * kind.toNat))
      = .ok (.frameEncode seq kind)) ∧
  (∀ (seq : BitVec 1) (kind : BitVec 2) (s : State),
    (s.params.maxPayload.val < s.len.toNat → exec (.frameEncode seq kind) s = .next
      { s with ok := false, err := .range, done := true, pending := none }) ∧
    (s.len.toNat ≤ s.params.maxPayload.val →
      ∀ (payload pre : List Byte) (c : Half),
        payload = Memory.readBytes s.fb 6 s.len.toNat →
        pre = [BitVec.ofNat 8 seq.toNat, BitVec.ofNat 8 kind.toNat,
          BitVec.ofNat 8 (s.len.toNat / 256), BitVec.ofNat 8 s.len.toNat] →
        c = checksum (pre ++ [0x00#8, 0x00#8] ++ payload) →
        exec (.frameEncode seq kind) s = .next
          { s with
            fb := Memory.writeBytes s.fb 0
              (pre ++ [BitVec.ofNat 8 (c.toNat / 256), BitVec.ofNat 8 c.toNat])
            len := BitVec.ofNat 16 (6 + s.len.toNat)
            ok := true, err := .none, done := true, pending := none })) ∧
  (∀ s : State, s.len = 13#16 → 13 ≤ s.params.maxPayload.val →
    Memory.readBytes s.fb 6 13 = [0x48#8, 0x65#8, 0x6C#8, 0x6C#8, 0x6F#8, 0x2C#8, 0x20#8, 0x57#8,
      0x6F#8, 0x72#8, 0x6C#8, 0x64#8, 0x21#8] →
    ∃ t, exec (.frameEncode 0 0) s = .next t ∧ t.len = 19#16 ∧
      t.fb = Memory.writeBytes s.fb 0 [0x00#8, 0x00#8, 0x00#8, 0x0D#8, 0xBE#8, 0xC6#8]) ∧
  ∀ s : State, s.len = 0#16 →
    ∃ t, exec (.frameEncode 1 1) s = .next t ∧ t.len = 6#16 ∧
      t.fb = Memory.writeBytes s.fb 0 [0x01#8, 0x01#8, 0x00#8, 0x00#8, 0xFE#8, 0xFE#8]

/-- R205, R192: FRAME_DECODE, each error with nothing else changed and in the order of R192, the fields of
an accepted frame, and the examples. -/
def Obligations.FrameDecodeResult : Prop :=
  decodeCmd 0x00000004#32 = .ok .frameDecode ∧
  (∀ (s : State) (n : Nat) (f : List Byte), n = s.len.toNat → f = Memory.readBytes s.fb 0 n →
    (s.params.maxPayload.val + 6 < n → exec .frameDecode s = .next
      { s with ok := false, err := .range, done := true, pending := none }) ∧
    (n ≤ s.params.maxPayload.val + 6 →
      (n < 6 → exec .frameDecode s = .next
        { s with ok := false, err := .short, done := true, pending := none }) ∧
      (6 ≤ n →
        ((be16 f 2).toNat ≠ n - 6 → exec .frameDecode s = .next
          { s with ok := false, err := .length, done := true, pending := none }) ∧
        ((be16 f 2).toNat = n - 6 →
          (onesSum f ≠ 0xFFFF#16 → exec .frameDecode s = .next
            { s with ok := false, err := .checksum, done := true, pending := none }) ∧
          (onesSum f = 0xFFFF#16 →
            (s.strict = true ∧ (1 < (byteAt f 0).toNat ∨ 3 < (byteAt f 1).toNat) →
              exec .frameDecode s = .next
                { s with ok := false, err := .field, done := true, pending := none }) ∧
            (¬ (s.strict = true ∧ (1 < (byteAt f 0).toNat ∨ 3 < (byteAt f 1).toNat)) →
              exec .frameDecode s = .next
                { s with rxSeq := byteAt f 0, rxKind := byteAt f 1, rxLen := be16 f 2,
                         rxCsum := be16 f 4,
                         ok := true, err := .none, done := true, pending := none })))))) ∧
  (∀ s : State, s.len = 6#16 →
    Memory.readBytes s.fb 0 6 = [0x01#8, 0x01#8, 0x00#8, 0x00#8, 0xFE#8, 0xFE#8] →
    ∃ t, exec .frameDecode s = .next t ∧ t.ok = true ∧ readReg .rxHdr t = 0x01010000#32 ∧
      readReg .rxCsum t = 0x0000FEFE#32) ∧
  ∀ s : State, s.len = 7#16 → 7 ≤ s.params.maxPayload.val + 6 →
    Memory.readBytes s.fb 0 7 = [0x00#8, 0x00#8, 0x00#8, 0x02#8, 0xFE#8, 0xFB#8, 0x01#8] →
    ∃ t, exec .frameDecode s = .next t ∧ t.ok = false ∧ errCode t.err = 0x2#4

/-- R191, R208: FRAME_DECODE succeeds exactly on the well-formed frames (with the field ranges under
STRICT), said by arithmetic on the bytes, and then reports the five parts of the packet. -/
def Obligations.DecodeAcceptsExactlyTheWellFormedFrames : Prop :=
  ∀ (s : State) (n : Nat) (f : List Byte), n = s.len.toNat → f = Memory.readBytes s.fb 0 n →
    ∃ t, exec .frameDecode s = .next t ∧
      (t.ok = true ↔
        n ≤ s.params.maxPayload.val + 6 ∧ 6 ≤ n ∧
        (byteAt f 2).toNat * 256 + (byteAt f 3).toNat = n - 6 ∧
        0 < rawSum f ∧ rawSum f % 0xFFFF = 0 ∧
        (s.strict = true → (byteAt f 0).toNat ≤ 1 ∧ (byteAt f 1).toNat ≤ 3)) ∧
      (t.ok = true →
        t.rxSeq = Memory.read t.fb 0 ∧ t.rxKind = Memory.read t.fb 1 ∧
        t.rxLen.toNat + 6 = t.len.toNat ∧
        t.rxCsum.toNat = (Memory.read t.fb 4).toNat * 256 + (Memory.read t.fb 5).toNat ∧
        Memory.readBytes t.fb 6 t.rxLen.toNat = f.drop 6)

/-! ## Commands: frames -/

/-- R140, R170, R175, R205 (frames): a command that stores nothing leaves every byte of the buffer, LEN,
WERR, CTRL and the parameters as they were; NOP leaves RESULT and the RX registers, the checksum
commands leave the RX registers, and FRAME_DECODE leaves RESULT. -/
def Obligations.FrameOfTheNonStoringCommands : Prop :=
  ∀ (i : Instr) (s t : State),
    i = .nop ∨ i = .csumCompute ∨ i = .csumVerify ∨ i = .frameDecode → exec i s = .next t →
    (∀ a, Memory.read t.fb a = Memory.read s.fb a) ∧
    t.len = s.len ∧ t.werr = s.werr ∧ t.ie = s.ie ∧ t.strict = s.strict ∧
    t.params = s.params ∧ t.moves = s.moves ∧ t.responses = s.responses ∧
    (i ≠ .frameDecode →
      t.rxSeq = s.rxSeq ∧ t.rxKind = s.rxKind ∧ t.rxLen = s.rxLen ∧ t.rxCsum = s.rxCsum) ∧
    (i = .nop ∨ i = .frameDecode → t.sum = s.sum ∧ t.csum = s.csum)

/-- R195, R85 (frame): FRAME_ENCODE changes no byte outside the six it stores from `headerIndex` on, none
at all when it fails, and no register but LEN and the completion flags. -/
def Obligations.FrameOfFrameEncode : Prop :=
  ∀ (seq : BitVec 1) (kind : BitVec 2) (s t : State), exec (.frameEncode seq kind) s = .next t →
    (∀ a, ¬ (headerIndex ≤ a ∧ a < headerIndex + 6) → Memory.read t.fb a = Memory.read s.fb a) ∧
    (s.params.maxPayload.val < s.len.toNat →
      t.len = s.len ∧ ∀ a, Memory.read t.fb a = Memory.read s.fb a) ∧
    t.sum = s.sum ∧ t.csum = s.csum ∧ t.rxSeq = s.rxSeq ∧ t.rxKind = s.rxKind ∧
    t.rxLen = s.rxLen ∧ t.rxCsum = s.rxCsum ∧ t.werr = s.werr ∧ t.ie = s.ie ∧
    t.strict = s.strict ∧ t.params = s.params ∧ t.moves = s.moves ∧ t.responses = s.responses

/-- R195: the six bytes a successful FRAME_ENCODE stores, read back byte by byte. -/
def Obligations.FrameEncodeHeaderBytes : Prop :=
  ∀ (seq : BitVec 1) (kind : BitVec 2) (s : State), Inv s →
    s.len.toNat ≤ s.params.maxPayload.val →
    ∃ t, exec (.frameEncode seq kind) s = .next t ∧
      (Memory.read t.fb 0).toNat = seq.toNat ∧ (Memory.read t.fb 1).toNat = kind.toNat ∧
      (Memory.read t.fb 2).toNat * 256 + (Memory.read t.fb 3).toNat = s.len.toNat ∧
      (Memory.read t.fb 4).toNat * 256 + (Memory.read t.fb 5).toNat
        = (checksum ([Memory.read t.fb 0, Memory.read t.fb 1, Memory.read t.fb 2,
            Memory.read t.fb 3, 0x00#8, 0x00#8] ++ Memory.readBytes s.fb 6 s.len.toNat)).toNat

/-- R85: a command's outcome depends on no buffer byte outside the range it reads, and it writes no byte
outside `FB[0..6)`, and none there unless it is FRAME_ENCODE. -/
def Obligations.EngineTouchesOnlyItsCheckedRange : Prop :=
  ∀ (i : Instr) (s : State) (fb' : Memory),
    (∀ a, Memory.read fb' a ≠ Memory.read s.fb a →
      match i with
      | .nop => True
      | .frameEncode _ _ => a < 6 ∨ 6 + s.len.toNat ≤ a ∨ s.params.maxPayload.val < s.len.toNat
      | _ => s.len.toNat ≤ a ∨ s.params.maxPayload.val + 6 < s.len.toNat) →
    ∃ t t', exec i s = .next t ∧ exec i { s with fb := fb' } = .next t' ∧
      t' = { t with fb := t'.fb } ∧
      (∀ a, 6 ≤ a → Memory.read t.fb a = Memory.read s.fb a) ∧
      (∀ a, Memory.read t.fb a ≠ Memory.read s.fb a →
        a < 6 ∧ t.ok = true ∧ ∃ seq kind, i = .frameEncode seq kind) ∧
      (Memory.wf s.fb = true → Memory.wf fb' = true → ∀ seq kind, i = .frameEncode seq kind →
        t.ok = true → ∀ a, a < 6 → Memory.read t'.fb a = Memory.read t.fb a)

/-! ## Errors, flags and the interrupt -/

/-- R232: which LEN each command refuses with RANGE. -/
def Obligations.RangeChecks : Prop :=
  ∀ (i : Instr) (s : State), ∃ t, exec i s = .next t ∧
    (i = .csumCompute ∨ i = .csumVerify ∨ i = .frameDecode →
      (t.err = .range ↔ s.params.maxPayload.val + 6 < s.len.toNat)) ∧
    (∀ seq kind, i = .frameEncode seq kind →
      (t.err = .range ↔ s.params.maxPayload.val < s.len.toNat)) ∧
    (i = .nop → t.err ≠ .range)

/-- R245: a command that reports OK = 0, an illegal one among them, writes nothing but OK, ERR, DONE and
BUSY, except CSUM_VERIFY with its CHECKSUM verdict, which writes RESULT. -/
def Obligations.ErrorsArePrecise : Prop :=
  (∀ (i : Instr) (s t : State), exec i s = .next t → t.ok = false →
    (t = { s with ok := false, err := t.err, done := true, pending := none } ∧ t.err ≠ .none) ∨
    (i = .csumVerify ∧ t.err = .checksum ∧
      t = { s with sum := t.sum, csum := t.csum,
                   ok := false, err := .checksum, done := true, pending := none })) ∧
  (∀ s : State, execIllegal s = .next
    { s with ok := false, err := .illegal, done := true, pending := none }) ∧
  ∃ s t : State, exec .csumVerify s = .next t ∧ t.ok = false ∧ t.csum ≠ s.csum

/-- R230, R235: which codes each command can report; FIELD only under STRICT. -/
def Obligations.ErrorCodesOfEachCommand : Prop :=
  ∀ (i : Instr) (s : State), ∃ t, exec i s = .next t ∧
    (i = .nop → t.err = .none) ∧
    (i = .csumCompute → t.err = .none ∨ t.err = .range) ∧
    (i = .csumVerify → t.err = .none ∨ t.err = .range ∨ t.err = .checksum) ∧
    (∀ seq kind, i = .frameEncode seq kind → t.err = .none ∨ t.err = .range) ∧
    t.err ≠ .illegal ∧
    (t.err = .field → s.strict = true) ∧
    (t.err = .short ∨ t.err = .length ∨ t.err = .field → i = .frameDecode) ∧
    (t.err = .short → s.len.toNat < 6)

/-- R240, R241: the interrupt is up exactly when IE and DONE are 1.  A completion with IE = 1 leaves it up,
a CTRL write leaves it at its bit 0 and DONE, a STATUS write with bit 1, an issue and a reset leave it
down.  It rises only at a completion with IE = 1 or at a CTRL write that sets IE while DONE = 1, and falls
only at a STATUS write with bit 1, an issue, a CTRL write that clears IE, or a reset. -/
def Obligations.InterruptRisesAndFalls : Prop :=
  (∀ s : State, irq s = true ↔ s.ie = true ∧ s.done = true) ∧
  ∀ s t : State, step s = .next t →
    (s.ie = true → s.pending ≠ none → s.moves = [] ∨ (∃ rest, s.moves = .engine :: rest) →
      irq t = true) ∧
    (∀ w rest, s.pending = none → s.moves = .host ⟨true, 4, 0x08#17, w⟩ :: rest →
      (irq t = true ↔ w.getLsbD 0 = true ∧ s.done = true)) ∧
    (∀ w rest, s.moves = .host ⟨true, 4, 0x04#17, w⟩ :: rest → w.getLsbD 1 = true →
      irq t = false) ∧
    (∀ w rest, s.pending = none → s.moves = .host ⟨true, 4, 0x00#17, w⟩ :: rest →
      irq t = false) ∧
    (∀ rest, s.moves = .reset :: rest → irq t = false) ∧
    (irq s = false → irq t = true →
      (s.ie = true ∧ s.pending ≠ none ∧ t.pending = none ∧ t.done = true) ∨
      (s.done = true ∧ s.pending = none ∧
        ∃ w rest, s.moves = .host ⟨true, 4, 0x08#17, w⟩ :: rest ∧ w.getLsbD 0 = true)) ∧
    (irq s = true → irq t = false →
      (∃ rest, s.moves = .reset :: rest) ∨
      (∃ w rest, s.moves = .host ⟨true, 4, 0x04#17, w⟩ :: rest ∧ w.getLsbD 1 = true) ∨
      (s.pending = none ∧ ∃ w rest, s.moves = .host ⟨true, 4, 0x00#17, w⟩ :: rest) ∨
      (s.pending = none ∧ t.done = s.done ∧
        ∃ w rest, s.moves = .host ⟨true, 4, 0x08#17, w⟩ :: rest ∧ w.getLsbD 0 = false))

/-- R234, R42: WERR is set only by a dropped write, and cleared only by a STATUS write with bit 3 or a
reset. -/
def Obligations.WerrIsSticky : Prop :=
  ∀ s t : State, step s = .next t →
    (s.werr = false → t.werr = true →
      s.pending ≠ none ∧ ∃ x rest, s.moves = .host x :: rest ∧ DroppableWrite s.params x) ∧
    (s.werr = true → t.werr = false →
      (∃ rest, s.moves = .reset :: rest) ∨
      ∃ w rest, s.moves = .host ⟨true, 4, 0x04#17, w⟩ :: rest ∧ w.getLsbD 3 = true)

/-- R38 to R43: the whole machine: what can change RESULT, the RX registers, OK and ERR, LEN, the
buffer and CTRL.  In a step from a state with a command pending, `t.pending = none` says that the step
is its completion, a reset being excluded. -/
def Obligations.OnlyTheirOwnStepsChangeTheRegisters : Prop :=
  ∀ s t : State, step s = .next t → (∀ rest, s.moves ≠ .reset :: rest) →
    (t.sum ≠ s.sum ∨ t.csum ≠ s.csum → t.pending = none ∧
      (s.pending = some 0x00000001#32 ∨ s.pending = some 0x00000002#32)) ∧
    (t.rxSeq ≠ s.rxSeq ∨ t.rxKind ≠ s.rxKind ∨ t.rxLen ≠ s.rxLen ∨ t.rxCsum ≠ s.rxCsum →
      s.pending = some 0x00000004#32 ∧ t.pending = none ∧ t.ok = true) ∧
    (t.ok ≠ s.ok ∨ t.err ≠ s.err → s.pending ≠ none ∧ t.pending = none) ∧
    (t.len ≠ s.len →
      (∃ w rest, s.pending = none ∧ s.moves = .host ⟨true, 4, 0x0C#17, w⟩ :: rest) ∨
      (t.pending = none ∧ t.ok = true ∧
        ∃ seq kind, s.pending = some (encode (.frameEncode seq kind)))) ∧
    (∀ a, Memory.read t.fb a ≠ Memory.read s.fb a →
      (∃ x rest, s.pending = none ∧ s.moves = .host x :: rest ∧ x.we = true ∧
        LegalBufferAccess s.params x ∧ x.off.toNat = 0x10000 + a) ∨
      (a < 6 ∧ t.pending = none ∧ t.ok = true ∧
        ∃ seq kind, s.pending = some (encode (.frameEncode seq kind)))) ∧
    (t.ie ≠ s.ie ∨ t.strict ≠ s.strict →
      ∃ w rest, s.pending = none ∧ s.moves = .host ⟨true, 4, 0x08#17, w⟩ :: rest)

/-- R44, R6: no step changes the parameters, so CFG is constant. -/
def Obligations.ParametersNeverChange : Prop :=
  ∀ s t : State, step s = .next t →
    t.params = s.params ∧ readReg .cfg t = readReg .cfg s

/-! ## Reset and the invariant -/

/-- R270, R271: the reset step; two of them are one; a pending command is discarded and has no completion
step; the buffer is kept.  That an engine turn after it is refused by name is the model's (log 6), and so
is that the parameters, the rest of the schedule and the responses are kept (log 8). -/
def Obligations.ResetStepClearsAllButTheBuffer : Prop :=
  ∀ (s : State) (rest : List Move), s.moves = .reset :: rest →
    step s = .next
      { s with pending := none, done := false, ok := false, werr := false, err := .none,
               ie := false, strict := false, len := 0#16, sum := 0#16, csum := 0#16,
               rxSeq := 0#8, rxKind := 0#8, rxLen := 0#16, rxCsum := 0#16, moves := rest } ∧
    (∀ more, rest = .reset :: more → runSteps 2 s = step { s with moves := .reset :: more }) ∧
    (∀ more, rest = .engine :: more → runSteps 2 s = .refused .engineStepNotEnabled)

/-- R48, R273: the state after power-on, for every parameter and every initial buffer: nothing pending,
every register but CFG reads 0, no interrupt, and the buffer holds the bytes it was given. -/
def Obligations.PowerOnState : Prop :=
  ∀ (p : Params) (fb0 : Memory),
    (State.powerOn p fb0).pending = none ∧ irq (State.powerOn p fb0) = false ∧
    (∀ r : Reg, r ≠ .cfg → readReg r (State.powerOn p fb0) = 0#32) ∧
    (∀ a, Memory.read (State.powerOn p fb0).fb a = Memory.read fb0 a) ∧
    (State.powerOn p fb0).params = p

/-- The invariant holds after power-on with any initial buffer that fits, and in the model's
`State.reset` (whose buffer and schedule are choices, logs 1 and 4). -/
def Obligations.InvHoldsAtPowerOn : Prop :=
  (∀ (p : Params) (fb0 : Memory), Memory.wf fb0 = true →
    Memory.below (p.maxPayload.val + 6) fb0 = true → Inv (State.powerOn p fb0)) ∧
  Inv State.reset

/-- R36, R35, R134, R39, R109, R43: every step keeps the invariant: the buffer in canonical form and inside
its bounds, DONE clear while a command is pending, ERR agreeing with OK, CSUM the complement of SUM, and
RX_LEN at most the largest payload. -/
def Obligations.EveryStepKeepsInv : Prop :=
  ∀ s t : State, Inv s → step s = .next t → Inv t

/-! ## Noninterference -/

/-- R46, R132: whatever the host does between issue and completion, the completion has the same effects:
the state after it differs only in WERR and in the responses given.  A pending illegal word completes
with ILLEGAL all the same. -/
def Obligations.HostCannotChangeAPendingCommand : Prop :=
  ∀ (s : State) (w : Word) (ts : List Txn) (rest : List Move),
    s.pending = some w → s.moves = ts.map Move.host ++ .engine :: rest →
    (∀ i, decodeCmd w = .ok i →
      ∃ t t', exec i s = .next t ∧ runSteps (ts.length + 1) s = .next t' ∧
        t' = { t with moves := rest, werr := t'.werr, responses := t'.responses }) ∧
    (∀ r, decodeCmd w = .error r →
      ∃ t', runSteps (ts.length + 1) s = .next t' ∧
        t' = { s with ok := false, err := .illegal, done := true, pending := none, moves := rest,
                      werr := t'.werr, responses := t'.responses })

/-- R136, R47: a command's result is a function of LEN, STRICT and the buffer (and the parameters): two
states that agree on those get the same OK, ERR, LEN and buffer, and each result register is either the
same in both or untouched in both. -/
def Obligations.ResultsDependOnlyOnTheOperands : Prop :=
  ∀ (i : Instr) (s s' : State),
    s.params = s'.params → s.len = s'.len → s.strict = s'.strict → s.fb = s'.fb →
    ∃ t t', exec i s = .next t ∧ exec i s' = .next t' ∧
      t.ok = t'.ok ∧ t.err = t'.err ∧ t.len = t'.len ∧ t.fb = t'.fb ∧
      (t.sum = t'.sum ∧ t.csum = t'.csum ∨
        t.sum = s.sum ∧ t'.sum = s'.sum ∧ t.csum = s.csum ∧ t'.csum = s'.csum) ∧
      (t.rxSeq = t'.rxSeq ∧ t.rxKind = t'.rxKind ∧ t.rxLen = t'.rxLen ∧ t.rxCsum = t'.rxCsum ∨
        t.rxSeq = s.rxSeq ∧ t'.rxSeq = s'.rxSeq ∧ t.rxKind = s.rxKind ∧ t'.rxKind = s'.rxKind ∧
        t.rxLen = s.rxLen ∧ t'.rxLen = s'.rxLen ∧ t.rxCsum = s.rxCsum ∧ t'.rxCsum = s'.rxCsum)

/-! ## Checksum arithmetic -/

/-- R160, R162: the words of a byte sequence, their sum over the naturals, and the fold. -/
def Obligations.OnesSumFoldsTheBigEndianWords : Prop :=
  (∀ b p : List Byte, p = (if b.length % 2 = 1 then b ++ [0x00#8] else b) →
    (words b).length = (b.length + 1) / 2 ∧
    (∀ i, i < (b.length + 1) / 2 →
      ((words b).getD i 0#16).toNat
        = (p.getD (2 * i) 0#8).toNat * 256 + (p.getD (2 * i + 1) 0#8).toNat) ∧
    (onesSum b).toNat = fold ((List.range ((b.length + 1) / 2)).map (fun i =>
      (p.getD (2 * i) 0#8).toNat * 256 + (p.getD (2 * i + 1) 0#8).toNat)).sum) ∧
  (∀ T, fold T = if T / 0x10000 = 0 then T else fold (T % 0x10000 + T / 0x10000)) ∧
  words [] = [] ∧ onesSum [] = 0#16

/-- R163: the fold terminates below 0x10000, and its value in closed form. -/
def Obligations.FoldIsExact : Prop :=
  ∀ T : Nat,
    fold T < 0x10000 ∧ (0x10000 ≤ T → T % 0x10000 + T / 0x10000 < T) ∧
    (T = 0 → fold T = 0) ∧ (0 < T → fold T = 1 + (T - 1) % 0xFFFF) ∧
    (fold T = 0xFFFF ↔ 0 < T ∧ T % 0xFFFF = 0)

/-- R164: folding any groups first, folding after every addition, and any order of the words give the same
sum. -/
def Obligations.GroupingDoesNotMatter : Prop :=
  (∀ groups : List (List Half),
    fold ((groups.map (fun g => fold ((g.map BitVec.toNat).sum))).sum)
      = fold ((groups.flatten.map BitVec.toNat).sum)) ∧
  (∀ acc x : Nat, fold (fold acc + x) = fold (acc + x)) ∧
  ∀ ws ws' : List Half, List.Perm ws ws' →
    fold ((ws.map BitVec.toNat).sum) = fold ((ws'.map BitVec.toNat).sum)

/-- R165: one's-complement addition is commutative and associative with identity 0; `onesSum` is the sum of
the words under it; it splits after an even number of bytes, and not in general after an odd one. -/
def Obligations.OnesAddLaws : Prop :=
  (∀ a b : Half, onesAdd a b = onesAdd b a) ∧
  (∀ a b c : Half, onesAdd (onesAdd a b) c = onesAdd a (onesAdd b c)) ∧
  (∀ a : Half, onesAdd a 0#16 = a) ∧
  (∀ b : List Byte, onesSum b = (words b).foldr onesAdd 0#16) ∧
  (∀ x y : List Byte, x.length % 2 = 0 → onesSum (x ++ y) = onesAdd (onesSum x) (onesSum y)) ∧
  ∃ x y : List Byte, x.length % 2 = 1 ∧ onesSum (x ++ y) ≠ onesAdd (onesSum x) (onesSum y)

/-- R166, R167: the checksum is 0xFFFF less the sum, with nothing substituted for 0x0000, and `verifies`
tests the sum alone. -/
def Obligations.ChecksumIsTheComplement : Prop :=
  ∀ b : List Byte,
    (checksum b).toNat = 0xFFFF - (onesSum b).toNat ∧
    (checksum b = 0x0000#16 ↔ onesSum b = 0xFFFF#16) ∧
    (verifies b = true ↔ onesSum b = 0xFFFF#16)

/-- R180: empty and all-zero inputs. -/
def Obligations.ZeroInputs : Prop :=
  (∀ n, onesSum (List.replicate n 0x00#8) = 0#16 ∧
    checksum (List.replicate n 0x00#8) = 0xFFFF#16) ∧
  onesSum [] = 0#16 ∧ checksum [] = 0xFFFF#16 ∧ verifies [] = false

/-- R181: the checksum round trip, and that every frame of R190 verifies. -/
def Obligations.ChecksumRoundTrip : Prop :=
  (∀ (x y : List Byte) (c : Half), x.length % 2 = 0 →
    c = checksum (x ++ [0x00#8, 0x00#8] ++ y) →
    verifies (x ++ [BitVec.ofNat 8 (c.toNat / 256), BitVec.ofNat 8 c.toNat] ++ y) = true) ∧
  ∀ (s k : Byte) (p : List Byte), verifies (frame s k p) = true

/-- R183: a flip of exactly one bit of a sequence that verifies is always detected. -/
def Obligations.SingleBitErrorsAreDetected : Prop :=
  ∀ (f : List Byte) (j k : Nat) (b : Byte), verifies f = true → f[j]? = some b → k < 8 →
    verifies (f.set j (b ^^^ (1#8 <<< k))) = false

/-- R184: what the checksum cannot detect: equal residues with both sums positive, and so two aligned words
swapped, 0x0000 against 0xFFFF beside a nonzero word, and a pair of changes that cancel. -/
def Obligations.UndetectedErrors : Prop :=
  (∀ b b' : List Byte, rawSum b % 0xFFFF = rawSum b' % 0xFFFF → 0 < rawSum b → 0 < rawSum b' →
    verifies b = verifies b') ∧
  (∀ (x y z : List Byte) (a b c d : Byte), x.length % 2 = 0 → y.length % 2 = 0 →
    verifies (x ++ [a, b] ++ y ++ [c, d] ++ z) = verifies (x ++ [c, d] ++ y ++ [a, b] ++ z)) ∧
  (∀ x z : List Byte, x.length % 2 = 0 → 0 < rawSum (x ++ z) →
    verifies (x ++ [0x00#8, 0x00#8] ++ z) = verifies (x ++ [0xFF#8, 0xFF#8] ++ z)) ∧
  ∀ (x y z : List Byte) (a b c d a' b' c' d' : Byte), x.length % 2 = 0 → y.length % 2 = 0 →
    (halfOf a b).toNat + (halfOf c d).toNat = (halfOf a' b').toNat + (halfOf c' d').toNat →
    verifies (x ++ [a, b] ++ y ++ [c, d] ++ z) = verifies (x ++ [a', b'] ++ y ++ [c', d'] ++ z)

/-- R185: where the correct checksum is 0x0000, 0xFFFF in the field verifies too; where it is 0xFFFF, every
other byte is zero and 0x0000 in the field does not verify. -/
def Obligations.NegativeZeroAlias : Prop :=
  ∀ x y : List Byte, x.length = 4 →
    (checksum (x ++ [0x00#8, 0x00#8] ++ y) = 0x0000#16 →
      verifies (x ++ [0x00#8, 0x00#8] ++ y) = true ∧
      verifies (x ++ [0xFF#8, 0xFF#8] ++ y) = true) ∧
    (checksum (x ++ [0x00#8, 0x00#8] ++ y) = 0xFFFF#16 →
      (∀ b, b ∈ x ++ y → b = 0x00#8) ∧
      verifies (x ++ [0xFF#8, 0xFF#8] ++ y) = true ∧
      verifies (x ++ [0x00#8, 0x00#8] ++ y) = false)

/-! ## Framing -/

/-- R190: the frame's bytes and its length. -/
def Obligations.FrameConstruction : Prop :=
  ∀ (s k : Byte) (p pre : List Byte) (c : Half), p.length ≤ 0xFFFF →
    pre = [s, k, BitVec.ofNat 8 (p.length / 256), BitVec.ofNat 8 p.length] →
    c = checksum (pre ++ [0x00#8, 0x00#8] ++ p) →
    frame s k p = pre ++ [BitVec.ofNat 8 (c.toNat / 256), BitVec.ofNat 8 c.toNat] ++ p ∧
    (frame s k p).length = 6 + p.length

/-- R196: after a successful FRAME_ENCODE the buffer holds `frame(SEQ, KIND, p)`, well-formed with STRICT
either 0 or 1, and a FRAME_DECODE issued next succeeds and reports what was encoded. -/
def Obligations.EncodeThenDecode : Prop :=
  ∀ (seq : BitVec 1) (kind : BitVec 2) (s : State) (f : List Byte) (rest : List Move), Inv s →
    s.pending = some (encode (.frameEncode seq kind)) →
    s.moves = .engine :: .host ⟨true, 4, 0x00#17, 0x00000004#32⟩ :: .engine :: rest →
    s.len.toNat ≤ s.params.maxPayload.val →
    f = frame (BitVec.ofNat 8 seq.toNat) (BitVec.ofNat 8 kind.toNat)
      (Memory.readBytes s.fb 6 s.len.toNat) →
    ∃ t u, step s = .next t ∧ runSteps 3 s = .next u ∧ t.ok = true ∧
      Memory.readBytes t.fb 0 t.len.toNat = f ∧ frameWf f = true ∧ fieldsInRange f = true ∧
      u.ok = true ∧ u.err = .none ∧ u.rxSeq.toNat = seq.toNat ∧ u.rxKind.toNat = kind.toNat ∧
      u.rxLen = s.len ∧
      u.rxCsum.toNat = (Memory.read t.fb 4).toNat * 256 + (Memory.read t.fb 5).toNat

/-- R283: LEN after a successful FRAME_ENCODE is the frame length, so that a second one fails with RANGE or
takes six more bytes as payload; the other commands keep LEN. -/
def Obligations.LenReuseHazard : Prop :=
  (∀ (seq : BitVec 1) (kind : BitVec 2) (s : State), Inv s →
    s.len.toNat ≤ s.params.maxPayload.val →
    ∃ t u, exec (.frameEncode seq kind) s = .next t ∧
      exec (.frameEncode seq kind) t = .next u ∧ t.len.toNat = 6 + s.len.toNat ∧
      (s.params.maxPayload.val < 6 + s.len.toNat →
        u = { t with ok := false, err := .range, done := true, pending := none }) ∧
      (6 + s.len.toNat ≤ s.params.maxPayload.val →
        u.ok = true ∧ u.len.toNat = 12 + s.len.toNat ∧
        Memory.readBytes u.fb 0 u.len.toNat
          = frame (BitVec.ofNat 8 seq.toNat) (BitVec.ofNat 8 kind.toNat)
              (Memory.readBytes s.fb 6 (6 + s.len.toNat)))) ∧
  ∀ (i : Instr) (s t : State), (∀ seq kind, i ≠ .frameEncode seq kind) → exec i s = .next t →
    t.len = s.len

/-- R284: CSUM_COMPUTE over a frame that verifies gives CSUM = 0x0000, not the frame's checksum. -/
def Obligations.ComputeOverAVerifyingFrameGivesZero : Prop :=
  ∀ s : State, s.len.toNat ≤ s.params.maxPayload.val + 6 →
    verifies (Memory.readBytes s.fb 0 s.len.toNat) = true →
    exec .csumCompute s = .next
      { s with sum := 0xFFFF#16, csum := 0x0000#16,
               ok := true, err := .none, done := true, pending := none }

/-! ## The observation of a run -/

/-- R291: a run's observation is what its reads returned, in order and no write's response among them, and
the state it ended in; and a run whose schedule is host transactions alone has one.  It is over the model's
finite schedules (log 1), finds the responses in the model's list (log 2), and counts an error response as
what a read returned (log 20). -/
def Obligations.ObservationIsTheReadsAndTheFinalState : Prop :=
  (∀ (s : State) (o : Observation), observation s = some o →
    ∃ k t rs, runSteps k s = .next t ∧ t.pending = none ∧ (∀ x, Move.host x ∉ t.moves) ∧
      o.final = { t with moves := [], responses := [] } ∧
      t.responses = s.responses ++ rs ∧
      o.reads = (((s.moves.take k).filterMap (fun m => match m with
        | .host x => some x
        | .engine => none
        | .reset => none)).zip rs).filterMap (fun e => if e.1.we then none else some e.2)) ∧
  ∀ (s : State) (ts : List Txn), s.moves = ts.map Move.host →
    ∃ o, observation s = some o ∧ o.reads.length = (ts.filter (fun x => !x.we)).length
end

