-- ==== Sys2Proof/Laws/State.lean ====
section
/-! SUPPORT. One lemma per field per update of State, so that no later proof unfolds a record update.
The updates are the shared operations of Machine/Flags.lean, Machine/Ops.lean and Machine/Bus.lean. -/

namespace Sys2Proof.Machine

open Sys2Proof

variable (s : State)

/-! ### completionFlags -/

@[simp] theorem completionFlags_fb (o : Bool) (e : CmdErr) : (completionFlags o e s).fb = s.fb := rfl
@[simp] theorem completionFlags_pending (o : Bool) (e : CmdErr) : (completionFlags o e s).pending = Option.none := rfl
@[simp] theorem completionFlags_done (o : Bool) (e : CmdErr) : (completionFlags o e s).done = true := rfl
@[simp] theorem completionFlags_ok (o : Bool) (e : CmdErr) : (completionFlags o e s).ok = o := rfl
@[simp] theorem completionFlags_werr (o : Bool) (e : CmdErr) : (completionFlags o e s).werr = s.werr := rfl
@[simp] theorem completionFlags_err (o : Bool) (e : CmdErr) : (completionFlags o e s).err = e := rfl
@[simp] theorem completionFlags_ie (o : Bool) (e : CmdErr) : (completionFlags o e s).ie = s.ie := rfl
@[simp] theorem completionFlags_strict (o : Bool) (e : CmdErr) : (completionFlags o e s).strict = s.strict := rfl
@[simp] theorem completionFlags_len (o : Bool) (e : CmdErr) : (completionFlags o e s).len = s.len := rfl
@[simp] theorem completionFlags_sum (o : Bool) (e : CmdErr) : (completionFlags o e s).sum = s.sum := rfl
@[simp] theorem completionFlags_csum (o : Bool) (e : CmdErr) : (completionFlags o e s).csum = s.csum := rfl
@[simp] theorem completionFlags_rxSeq (o : Bool) (e : CmdErr) : (completionFlags o e s).rxSeq = s.rxSeq := rfl
@[simp] theorem completionFlags_rxKind (o : Bool) (e : CmdErr) : (completionFlags o e s).rxKind = s.rxKind := rfl
@[simp] theorem completionFlags_rxLen (o : Bool) (e : CmdErr) : (completionFlags o e s).rxLen = s.rxLen := rfl
@[simp] theorem completionFlags_rxCsum (o : Bool) (e : CmdErr) : (completionFlags o e s).rxCsum = s.rxCsum := rfl
@[simp] theorem completionFlags_params (o : Bool) (e : CmdErr) : (completionFlags o e s).params = s.params := rfl
@[simp] theorem completionFlags_moves (o : Bool) (e : CmdErr) : (completionFlags o e s).moves = s.moves := rfl
@[simp] theorem completionFlags_responses (o : Bool) (e : CmdErr) : (completionFlags o e s).responses = s.responses := rfl

/-! ### applyEffects -/

@[simp] theorem applyEffects_fb (E : Effects) : (applyEffects E s).fb = applyMem E.mem s.fb := rfl
@[simp] theorem applyEffects_pending (E : Effects) : (applyEffects E s).pending = s.pending := rfl
@[simp] theorem applyEffects_done (E : Effects) : (applyEffects E s).done = s.done := rfl
@[simp] theorem applyEffects_ok (E : Effects) : (applyEffects E s).ok = s.ok := rfl
@[simp] theorem applyEffects_werr (E : Effects) : (applyEffects E s).werr = s.werr := rfl
@[simp] theorem applyEffects_err (E : Effects) : (applyEffects E s).err = s.err := rfl
@[simp] theorem applyEffects_ie (E : Effects) : (applyEffects E s).ie = s.ie := rfl
@[simp] theorem applyEffects_strict (E : Effects) : (applyEffects E s).strict = s.strict := rfl
@[simp] theorem applyEffects_len (E : Effects) : (applyEffects E s).len = E.len.getD s.len := rfl
@[simp] theorem applyEffects_sum (E : Effects) : (applyEffects E s).sum = E.sum.getD s.sum := rfl
@[simp] theorem applyEffects_csum (E : Effects) : (applyEffects E s).csum = E.csum.getD s.csum := rfl
@[simp] theorem applyEffects_rxSeq (E : Effects) : (applyEffects E s).rxSeq = E.rxSeq.getD s.rxSeq := rfl
@[simp] theorem applyEffects_rxKind (E : Effects) : (applyEffects E s).rxKind = E.rxKind.getD s.rxKind := rfl
@[simp] theorem applyEffects_rxLen (E : Effects) : (applyEffects E s).rxLen = E.rxLen.getD s.rxLen := rfl
@[simp] theorem applyEffects_rxCsum (E : Effects) : (applyEffects E s).rxCsum = E.rxCsum.getD s.rxCsum := rfl
@[simp] theorem applyEffects_params (E : Effects) : (applyEffects E s).params = s.params := rfl
@[simp] theorem applyEffects_moves (E : Effects) : (applyEffects E s).moves = s.moves := rfl
@[simp] theorem applyEffects_responses (E : Effects) : (applyEffects E s).responses = s.responses := rfl

/-! ### complete -/

@[simp] theorem complete_fb (o : CmdOutcome) : (complete o s).fb = applyMem o.effects.mem s.fb := rfl
@[simp] theorem complete_pending (o : CmdOutcome) : (complete o s).pending = Option.none := rfl
@[simp] theorem complete_done (o : CmdOutcome) : (complete o s).done = true := rfl
@[simp] theorem complete_ok (o : CmdOutcome) : (complete o s).ok = o.ok := rfl
@[simp] theorem complete_werr (o : CmdOutcome) : (complete o s).werr = s.werr := rfl
@[simp] theorem complete_err (o : CmdOutcome) : (complete o s).err = o.err := rfl
@[simp] theorem complete_ie (o : CmdOutcome) : (complete o s).ie = s.ie := rfl
@[simp] theorem complete_strict (o : CmdOutcome) : (complete o s).strict = s.strict := rfl
@[simp] theorem complete_len (o : CmdOutcome) : (complete o s).len = o.effects.len.getD s.len := rfl
@[simp] theorem complete_sum (o : CmdOutcome) : (complete o s).sum = o.effects.sum.getD s.sum := rfl
@[simp] theorem complete_csum (o : CmdOutcome) : (complete o s).csum = o.effects.csum.getD s.csum := rfl
@[simp] theorem complete_rxSeq (o : CmdOutcome) : (complete o s).rxSeq = o.effects.rxSeq.getD s.rxSeq := rfl
@[simp] theorem complete_rxKind (o : CmdOutcome) : (complete o s).rxKind = o.effects.rxKind.getD s.rxKind := rfl
@[simp] theorem complete_rxLen (o : CmdOutcome) : (complete o s).rxLen = o.effects.rxLen.getD s.rxLen := rfl
@[simp] theorem complete_rxCsum (o : CmdOutcome) : (complete o s).rxCsum = o.effects.rxCsum.getD s.rxCsum := rfl
@[simp] theorem complete_params (o : CmdOutcome) : (complete o s).params = s.params := rfl
@[simp] theorem complete_moves (o : CmdOutcome) : (complete o s).moves = s.moves := rfl
@[simp] theorem complete_responses (o : CmdOutcome) : (complete o s).responses = s.responses := rfl

/-! ### dropWrite -/

@[simp] theorem dropWrite_fb : (dropWrite s).fb = s.fb := rfl
@[simp] theorem dropWrite_pending : (dropWrite s).pending = s.pending := rfl
@[simp] theorem dropWrite_done : (dropWrite s).done = s.done := rfl
@[simp] theorem dropWrite_ok : (dropWrite s).ok = s.ok := rfl
@[simp] theorem dropWrite_werr : (dropWrite s).werr = true := rfl
@[simp] theorem dropWrite_err : (dropWrite s).err = s.err := rfl
@[simp] theorem dropWrite_ie : (dropWrite s).ie = s.ie := rfl
@[simp] theorem dropWrite_strict : (dropWrite s).strict = s.strict := rfl
@[simp] theorem dropWrite_len : (dropWrite s).len = s.len := rfl
@[simp] theorem dropWrite_sum : (dropWrite s).sum = s.sum := rfl
@[simp] theorem dropWrite_csum : (dropWrite s).csum = s.csum := rfl
@[simp] theorem dropWrite_rxSeq : (dropWrite s).rxSeq = s.rxSeq := rfl
@[simp] theorem dropWrite_rxKind : (dropWrite s).rxKind = s.rxKind := rfl
@[simp] theorem dropWrite_rxLen : (dropWrite s).rxLen = s.rxLen := rfl
@[simp] theorem dropWrite_rxCsum : (dropWrite s).rxCsum = s.rxCsum := rfl
@[simp] theorem dropWrite_params : (dropWrite s).params = s.params := rfl
@[simp] theorem dropWrite_moves : (dropWrite s).moves = s.moves := rfl
@[simp] theorem dropWrite_responses : (dropWrite s).responses = s.responses := rfl

/-! ### clearStatus -/

@[simp] theorem clearStatus_fb (w : Word) : (clearStatus w s).fb = s.fb := rfl
@[simp] theorem clearStatus_pending (w : Word) : (clearStatus w s).pending = s.pending := rfl
@[simp] theorem clearStatus_done (w : Word) : (clearStatus w s).done = if w.getLsbD 1 then false else s.done := rfl
@[simp] theorem clearStatus_ok (w : Word) : (clearStatus w s).ok = s.ok := rfl
@[simp] theorem clearStatus_werr (w : Word) : (clearStatus w s).werr = if w.getLsbD 3 then false else s.werr := rfl
@[simp] theorem clearStatus_err (w : Word) : (clearStatus w s).err = s.err := rfl
@[simp] theorem clearStatus_ie (w : Word) : (clearStatus w s).ie = s.ie := rfl
@[simp] theorem clearStatus_strict (w : Word) : (clearStatus w s).strict = s.strict := rfl
@[simp] theorem clearStatus_len (w : Word) : (clearStatus w s).len = s.len := rfl
@[simp] theorem clearStatus_sum (w : Word) : (clearStatus w s).sum = s.sum := rfl
@[simp] theorem clearStatus_csum (w : Word) : (clearStatus w s).csum = s.csum := rfl
@[simp] theorem clearStatus_rxSeq (w : Word) : (clearStatus w s).rxSeq = s.rxSeq := rfl
@[simp] theorem clearStatus_rxKind (w : Word) : (clearStatus w s).rxKind = s.rxKind := rfl
@[simp] theorem clearStatus_rxLen (w : Word) : (clearStatus w s).rxLen = s.rxLen := rfl
@[simp] theorem clearStatus_rxCsum (w : Word) : (clearStatus w s).rxCsum = s.rxCsum := rfl
@[simp] theorem clearStatus_params (w : Word) : (clearStatus w s).params = s.params := rfl
@[simp] theorem clearStatus_moves (w : Word) : (clearStatus w s).moves = s.moves := rfl
@[simp] theorem clearStatus_responses (w : Word) : (clearStatus w s).responses = s.responses := rfl

/-! ### writeCtrl -/

@[simp] theorem writeCtrl_fb (w : Word) : (writeCtrl w s).fb = s.fb := rfl
@[simp] theorem writeCtrl_pending (w : Word) : (writeCtrl w s).pending = s.pending := rfl
@[simp] theorem writeCtrl_done (w : Word) : (writeCtrl w s).done = s.done := rfl
@[simp] theorem writeCtrl_ok (w : Word) : (writeCtrl w s).ok = s.ok := rfl
@[simp] theorem writeCtrl_werr (w : Word) : (writeCtrl w s).werr = s.werr := rfl
@[simp] theorem writeCtrl_err (w : Word) : (writeCtrl w s).err = s.err := rfl
@[simp] theorem writeCtrl_ie (w : Word) : (writeCtrl w s).ie = w.getLsbD 0 := rfl
@[simp] theorem writeCtrl_strict (w : Word) : (writeCtrl w s).strict = w.getLsbD 1 := rfl
@[simp] theorem writeCtrl_len (w : Word) : (writeCtrl w s).len = s.len := rfl
@[simp] theorem writeCtrl_sum (w : Word) : (writeCtrl w s).sum = s.sum := rfl
@[simp] theorem writeCtrl_csum (w : Word) : (writeCtrl w s).csum = s.csum := rfl
@[simp] theorem writeCtrl_rxSeq (w : Word) : (writeCtrl w s).rxSeq = s.rxSeq := rfl
@[simp] theorem writeCtrl_rxKind (w : Word) : (writeCtrl w s).rxKind = s.rxKind := rfl
@[simp] theorem writeCtrl_rxLen (w : Word) : (writeCtrl w s).rxLen = s.rxLen := rfl
@[simp] theorem writeCtrl_rxCsum (w : Word) : (writeCtrl w s).rxCsum = s.rxCsum := rfl
@[simp] theorem writeCtrl_params (w : Word) : (writeCtrl w s).params = s.params := rfl
@[simp] theorem writeCtrl_moves (w : Word) : (writeCtrl w s).moves = s.moves := rfl
@[simp] theorem writeCtrl_responses (w : Word) : (writeCtrl w s).responses = s.responses := rfl

/-! ### writeLen -/

@[simp] theorem writeLen_fb (w : Word) : (writeLen w s).fb = s.fb := rfl
@[simp] theorem writeLen_pending (w : Word) : (writeLen w s).pending = s.pending := rfl
@[simp] theorem writeLen_done (w : Word) : (writeLen w s).done = s.done := rfl
@[simp] theorem writeLen_ok (w : Word) : (writeLen w s).ok = s.ok := rfl
@[simp] theorem writeLen_werr (w : Word) : (writeLen w s).werr = s.werr := rfl
@[simp] theorem writeLen_err (w : Word) : (writeLen w s).err = s.err := rfl
@[simp] theorem writeLen_ie (w : Word) : (writeLen w s).ie = s.ie := rfl
@[simp] theorem writeLen_strict (w : Word) : (writeLen w s).strict = s.strict := rfl
@[simp] theorem writeLen_len (w : Word) : (writeLen w s).len = w.extractLsb' 0 16 := rfl
@[simp] theorem writeLen_sum (w : Word) : (writeLen w s).sum = s.sum := rfl
@[simp] theorem writeLen_csum (w : Word) : (writeLen w s).csum = s.csum := rfl
@[simp] theorem writeLen_rxSeq (w : Word) : (writeLen w s).rxSeq = s.rxSeq := rfl
@[simp] theorem writeLen_rxKind (w : Word) : (writeLen w s).rxKind = s.rxKind := rfl
@[simp] theorem writeLen_rxLen (w : Word) : (writeLen w s).rxLen = s.rxLen := rfl
@[simp] theorem writeLen_rxCsum (w : Word) : (writeLen w s).rxCsum = s.rxCsum := rfl
@[simp] theorem writeLen_params (w : Word) : (writeLen w s).params = s.params := rfl
@[simp] theorem writeLen_moves (w : Word) : (writeLen w s).moves = s.moves := rfl
@[simp] theorem writeLen_responses (w : Word) : (writeLen w s).responses = s.responses := rfl

/-! ### writeByte -/

@[simp] theorem writeByte_fb (i : Nat) (w : Word) : (writeByte i w s).fb = Memory.write s.fb i (w.extractLsb' 0 8) := rfl
@[simp] theorem writeByte_pending (i : Nat) (w : Word) : (writeByte i w s).pending = s.pending := rfl
@[simp] theorem writeByte_done (i : Nat) (w : Word) : (writeByte i w s).done = s.done := rfl
@[simp] theorem writeByte_ok (i : Nat) (w : Word) : (writeByte i w s).ok = s.ok := rfl
@[simp] theorem writeByte_werr (i : Nat) (w : Word) : (writeByte i w s).werr = s.werr := rfl
@[simp] theorem writeByte_err (i : Nat) (w : Word) : (writeByte i w s).err = s.err := rfl
@[simp] theorem writeByte_ie (i : Nat) (w : Word) : (writeByte i w s).ie = s.ie := rfl
@[simp] theorem writeByte_strict (i : Nat) (w : Word) : (writeByte i w s).strict = s.strict := rfl
@[simp] theorem writeByte_len (i : Nat) (w : Word) : (writeByte i w s).len = s.len := rfl
@[simp] theorem writeByte_sum (i : Nat) (w : Word) : (writeByte i w s).sum = s.sum := rfl
@[simp] theorem writeByte_csum (i : Nat) (w : Word) : (writeByte i w s).csum = s.csum := rfl
@[simp] theorem writeByte_rxSeq (i : Nat) (w : Word) : (writeByte i w s).rxSeq = s.rxSeq := rfl
@[simp] theorem writeByte_rxKind (i : Nat) (w : Word) : (writeByte i w s).rxKind = s.rxKind := rfl
@[simp] theorem writeByte_rxLen (i : Nat) (w : Word) : (writeByte i w s).rxLen = s.rxLen := rfl
@[simp] theorem writeByte_rxCsum (i : Nat) (w : Word) : (writeByte i w s).rxCsum = s.rxCsum := rfl
@[simp] theorem writeByte_params (i : Nat) (w : Word) : (writeByte i w s).params = s.params := rfl
@[simp] theorem writeByte_moves (i : Nat) (w : Word) : (writeByte i w s).moves = s.moves := rfl
@[simp] theorem writeByte_responses (i : Nat) (w : Word) : (writeByte i w s).responses = s.responses := rfl

/-! ### resetStep -/

@[simp] theorem resetStep_fb : (resetStep s).fb = s.fb := rfl
@[simp] theorem resetStep_pending : (resetStep s).pending = Option.none := rfl
@[simp] theorem resetStep_done : (resetStep s).done = false := rfl
@[simp] theorem resetStep_ok : (resetStep s).ok = false := rfl
@[simp] theorem resetStep_werr : (resetStep s).werr = false := rfl
@[simp] theorem resetStep_err : (resetStep s).err = CmdErr.none := rfl
@[simp] theorem resetStep_ie : (resetStep s).ie = false := rfl
@[simp] theorem resetStep_strict : (resetStep s).strict = false := rfl
@[simp] theorem resetStep_len : (resetStep s).len = 0#16 := rfl
@[simp] theorem resetStep_sum : (resetStep s).sum = 0#16 := rfl
@[simp] theorem resetStep_csum : (resetStep s).csum = 0#16 := rfl
@[simp] theorem resetStep_rxSeq : (resetStep s).rxSeq = 0#8 := rfl
@[simp] theorem resetStep_rxKind : (resetStep s).rxKind = 0#8 := rfl
@[simp] theorem resetStep_rxLen : (resetStep s).rxLen = 0#16 := rfl
@[simp] theorem resetStep_rxCsum : (resetStep s).rxCsum = 0#16 := rfl
@[simp] theorem resetStep_params : (resetStep s).params = s.params := rfl
@[simp] theorem resetStep_moves : (resetStep s).moves = s.moves := rfl
@[simp] theorem resetStep_responses : (resetStep s).responses = s.responses := rfl

end Sys2Proof.Machine
end

