-- ==== Sys2Proof/Laws/Bus.lean ====
section
/-! SUPPORT. What a bus transaction can do (spec/20_memory.md R70 to R78). -/

namespace Sys2Proof.Machine

open Sys2Proof

theorem unlessPending_idle {s : State} (f : State → State) (h : s.pending = Option.none) :
    unlessPending f s = f s := by
  simp [unlessPending, h]

theorem unlessPending_busy {s : State} {w : Word} (f : State → State) (h : s.pending = some w) :
    unlessPending f s = dropWrite s := by
  simp [unlessPending, h]

/-- A guarded write applies when nothing is pending and is dropped otherwise (R78). -/
theorem unlessPending_cases (f : State → State) (s : State) :
    (s.pending = Option.none ∧ unlessPending f s = f s) ∨
    (s.pending.isSome = true ∧ unlessPending f s = dropWrite s) := by
  cases h : s.pending with
  | none => exact .inl ⟨rfl, unlessPending_idle f h⟩
  | some w => exact .inr ⟨rfl, unlessPending_busy f h⟩

/-- A buffer index that a transaction reaches is the offset less 0x10000, and lies in the buffer
(spec/20_memory.md R72). -/
theorem regionOf_buffer {p : Params} {off : Offset} {i : Nat} (h : regionOf p off = .buffer i) :
    off.toNat = 0x10000 + i ∧ i < Config.bufBytes p := by
  unfold regionOf at h
  split at h
  · exact absurd h (by simp)
  · split at h
    · rename_i hb
      injection h with h
      simp only [Config.bufferBase] at hb h
      omega
    · exact absurd h (by simp)

theorem regionOf_register {p : Params} {off : Offset} {r : Reg}
    (h : regionOf p off = .register r) : off.toNat < 0x20 ∧ r = regAt (off.toNat / 4) := by
  unfold regionOf at h
  split at h
  · rename_i hb
    injection h with h
    exact ⟨hb, h.symm⟩
  · split at h <;> exact absurd h (by simp)

theorem regionOf_of_lt (p : Params) {off : Offset} (h : off.toNat < 0x20) :
    regionOf p off = .register (regAt (off.toNat / 4)) := by
  simp [regionOf, h]

theorem regionOf_of_buffer {p : Params} {off : Offset} {i : Nat} (h : off.toNat = 0x10000 + i)
    (hi : i < Config.bufBytes p) : regionOf p off = .buffer i := by
  have h1 : ¬ off.toNat < 0x20 := by omega
  have h2 : 0x10000 ≤ off.toNat ∧ off.toNat < 0x10000 + Config.bufBytes p := by omega
  have h3 : off.toNat - Config.bufferBase = i := by
    simp only [Config.bufferBase]
    omega
  rw [regionOf, if_neg h1, if_pos h2, h3]

/-- The aligned offsets of the register region (spec/10_state.md R33). -/
theorem aligned_register_offset {off : Offset} (h : off.toNat < 0x20) (ha : off.toNat % 4 = 0) :
    off = 0x00#17 ∨ off = 0x04#17 ∨ off = 0x08#17 ∨ off = 0x0C#17 ∨ off = 0x10#17 ∨
      off = 0x14#17 ∨ off = 0x18#17 ∨ off = 0x1C#17 := by
  simp only [← BitVec.toNat_inj, BitVec.toNat_ofNat]
  omega

/-- Everything a transaction can leave behind: nothing changed (a read, an error response, a write to
a read-only register), or one of the five kinds of write, each legal by R74. -/
theorem busTransaction_cases (t : Txn) (s : State) :
    (busTransaction t s).1 = s ∨
    (t = ⟨true, 4, 0x00#17, t.wdata⟩ ∧ (busTransaction t s).1 = issue t.wdata s) ∨
    (t = ⟨true, 4, 0x04#17, t.wdata⟩ ∧ (busTransaction t s).1 = clearStatus t.wdata s) ∨
    (t = ⟨true, 4, 0x08#17, t.wdata⟩ ∧
      (busTransaction t s).1 = unlessPending (writeCtrl t.wdata) s) ∨
    (t = ⟨true, 4, 0x0C#17, t.wdata⟩ ∧
      (busTransaction t s).1 = unlessPending (writeLen t.wdata) s) ∨
    (∃ i, t.we = true ∧ t.size = 1 ∧ t.off.toNat = 0x10000 + i ∧ i < Config.bufBytes s.params ∧
      (busTransaction t s).1 = unlessPending (writeByte i t.wdata) s) := by
  obtain ⟨we, size, off, w⟩ := t
  unfold busTransaction
  cases hr : regionOf s.params off with
  | register r =>
    obtain ⟨hlt, rfl⟩ := regionOf_register hr
    by_cases ha : registerAccessOk ⟨we, size, off, w⟩ = true
    · simp only [ha, if_true]
      simp only [registerAccessOk, Bool.and_eq_true, decide_eq_true_eq] at ha
      obtain ⟨rfl, ha⟩ := ha
      cases we with
      | false => exact .inl rfl
      | true =>
        rcases aligned_register_offset hlt ha with h | h | h | h | h | h | h | h <;>
          subst h <;> simp [regAt, writeReg]
    · exact .inl (by simp [ha])
  | buffer i =>
    obtain ⟨ho, hi⟩ := regionOf_buffer hr
    by_cases ha : bufferAccessOk ⟨we, size, off, w⟩ = true
    · simp only [ha, if_true]
      simp only [bufferAccessOk, decide_eq_true_eq] at ha
      cases we with
      | false => exact .inl rfl
      | true => exact .inr (.inr (.inr (.inr (.inr ⟨i, rfl, ha, ho, hi, rfl⟩))))
    · exact .inl (by simp [ha])
  | reserved => exact .inl rfl

/-- A legal register write: the write itself, with a normal response (spec/20_memory.md R74). -/
theorem busTransaction_writeReg {off : Offset} (w : Word) (s : State) (h : off.toNat < 0x20)
    (ha : off.toNat % 4 = 0) :
    busTransaction ⟨true, 4, off, w⟩ s
      = (writeReg (regAt (off.toNat / 4)) w s, normalResponse 0#32) := by
  simp [busTransaction, regionOf_of_lt s.params h, registerAccessOk, ha]

/-- A legal register read: no change, and the register's value (spec/20_memory.md R77). -/
theorem busTransaction_readReg {off : Offset} (d : Word) (s : State) (h : off.toNat < 0x20)
    (ha : off.toNat % 4 = 0) :
    busTransaction ⟨false, 4, off, d⟩ s
      = (s, normalResponse (readReg (regAt (off.toNat / 4)) s)) := by
  simp [busTransaction, regionOf_of_lt s.params h, registerAccessOk, ha]

/-- A legal buffer write (spec/10_state.md R43). -/
theorem busTransaction_writeByte {off : Offset} {i : Nat} (w : Word) (s : State)
    (h : off.toNat = 0x10000 + i) (hi : i < Config.bufBytes s.params) :
    busTransaction ⟨true, 1, off, w⟩ s
      = (unlessPending (writeByte i w) s, normalResponse 0#32) := by
  simp [busTransaction, regionOf_of_buffer h hi, bufferAccessOk]

/-- A legal buffer read (spec/10_state.md R43). -/
theorem busTransaction_readByte {off : Offset} {i : Nat} (d : Word) (s : State)
    (h : off.toNat = 0x10000 + i) (hi : i < Config.bufBytes s.params) :
    busTransaction ⟨false, 1, off, d⟩ s
      = (s, normalResponse ((Memory.read s.fb i).zeroExtend 32)) := by
  simp [busTransaction, regionOf_of_buffer h hi, bufferAccessOk]

/-! ### The response log -/

@[simp] theorem hostStep_responses (t : Txn) (s : State) :
    (hostStep t s).responses = (busTransaction t s).1.responses ++ [(busTransaction t s).2] := rfl
@[simp] theorem hostStep_fb (t : Txn) (s : State) :
    (hostStep t s).fb = (busTransaction t s).1.fb := rfl
@[simp] theorem hostStep_pending (t : Txn) (s : State) :
    (hostStep t s).pending = (busTransaction t s).1.pending := rfl
@[simp] theorem hostStep_done (t : Txn) (s : State) :
    (hostStep t s).done = (busTransaction t s).1.done := rfl
@[simp] theorem hostStep_ok (t : Txn) (s : State) :
    (hostStep t s).ok = (busTransaction t s).1.ok := rfl
@[simp] theorem hostStep_werr (t : Txn) (s : State) :
    (hostStep t s).werr = (busTransaction t s).1.werr := rfl
@[simp] theorem hostStep_err (t : Txn) (s : State) :
    (hostStep t s).err = (busTransaction t s).1.err := rfl
@[simp] theorem hostStep_ie (t : Txn) (s : State) :
    (hostStep t s).ie = (busTransaction t s).1.ie := rfl
@[simp] theorem hostStep_strict (t : Txn) (s : State) :
    (hostStep t s).strict = (busTransaction t s).1.strict := rfl
@[simp] theorem hostStep_len (t : Txn) (s : State) :
    (hostStep t s).len = (busTransaction t s).1.len := rfl
@[simp] theorem hostStep_sum (t : Txn) (s : State) :
    (hostStep t s).sum = (busTransaction t s).1.sum := rfl
@[simp] theorem hostStep_csum (t : Txn) (s : State) :
    (hostStep t s).csum = (busTransaction t s).1.csum := rfl
@[simp] theorem hostStep_rxSeq (t : Txn) (s : State) :
    (hostStep t s).rxSeq = (busTransaction t s).1.rxSeq := rfl
@[simp] theorem hostStep_rxKind (t : Txn) (s : State) :
    (hostStep t s).rxKind = (busTransaction t s).1.rxKind := rfl
@[simp] theorem hostStep_rxLen (t : Txn) (s : State) :
    (hostStep t s).rxLen = (busTransaction t s).1.rxLen := rfl
@[simp] theorem hostStep_rxCsum (t : Txn) (s : State) :
    (hostStep t s).rxCsum = (busTransaction t s).1.rxCsum := rfl
@[simp] theorem hostStep_params (t : Txn) (s : State) :
    (hostStep t s).params = (busTransaction t s).1.params := rfl
@[simp] theorem hostStep_moves (t : Txn) (s : State) :
    (hostStep t s).moves = (busTransaction t s).1.moves := rfl

end Sys2Proof.Machine
end

