-- ==== Sys2Proof/Laws/Checksum.lean ====
section
/-! SUPPORT. The small lemmas of the checksum definitions (spec/41_checksum.md R160 to R167). -/

namespace Sys2Proof.Machine

open Sys2Proof

@[simp] theorem pairWords_nil : pairWords [] = [] := rfl

@[simp] theorem pairWords_single (hi : Byte) : pairWords [hi] = [halfOf hi 0x00#8] := rfl

@[simp] theorem pairWords_cons_cons (hi lo : Byte) (rest : List Byte) :
    pairWords (hi :: lo :: rest) = halfOf hi lo :: pairWords rest := rfl

/-- Padding an even number of bytes changes nothing (R161). -/
theorem pad_of_even {b : List Byte} (h : b.length % 2 = 0) : pad b = b := by
  simp [pad, h]

/-- Padding an odd number of bytes appends one zero byte (R161). -/
theorem pad_of_odd {b : List Byte} (h : b.length % 2 = 1) : pad b = b ++ [0x00#8] := by
  simp [pad, h]

/-- A padded sequence has an even number of bytes (R161). -/
theorem length_pad_even (b : List Byte) : (pad b).length % 2 = 0 := by
  unfold pad
  split
  · rw [List.length_append, List.length_singleton]
    omega
  · omega

/-- `pairWords` reads a missing last byte as the pad byte, so padding first changes no word. -/
theorem words_eq_pairWords (b : List Byte) : words b = pairWords b := by
  unfold words pad
  split
  · rename_i h
    induction b using pairWords.induct with
    | case1 => simp at h
    | case2 hi => rfl
    | case3 hi lo rest ih =>
      rw [List.cons_append, List.cons_append, pairWords_cons_cons, pairWords_cons_cons,
        ih (by simp only [List.length_cons] at h; omega)]
  · rfl

/-- Word boundaries do not shift past an even number of bytes (R165). -/
theorem pairWords_append_even {x : List Byte} (y : List Byte) (h : x.length % 2 = 0) :
    pairWords (x ++ y) = pairWords x ++ pairWords y := by
  induction x using pairWords.induct with
  | case1 => rfl
  | case2 hi => simp at h
  | case3 hi lo rest ih =>
    rw [List.cons_append, List.cons_append, pairWords_cons_cons, pairWords_cons_cons,
      ih (by simp only [List.length_cons] at h; omega), List.cons_append]

theorem rawSum_eq (b : List Byte) : rawSum b = ((pairWords b).map BitVec.toNat).sum := by
  rw [rawSum, words_eq_pairWords]

theorem rawSum_append_even {x : List Byte} (y : List Byte) (h : x.length % 2 = 0) :
    rawSum (x ++ y) = rawSum x + rawSum y := by
  simp [rawSum_eq, pairWords_append_even y h]

@[simp] theorem rawSum_nil : rawSum [] = 0 := rfl

theorem foldRounds_of_lt {T : Nat} (fuel : Nat) (h : T < 0x10000) : foldRounds fuel T = T := by
  cases fuel with
  | zero => rfl
  | succ fuel => simp [foldRounds, Nat.div_eq_of_lt h]

theorem foldRounds_of_ge {T : Nat} (fuel : Nat) (h : 0x10000 ≤ T) :
    foldRounds (fuel + 1) T = foldRounds fuel (T % 0x10000 + T / 0x10000) := by
  have : T / 0x10000 ≠ 0 := by omega
  simp [foldRounds, this]

/-- A value with no carry bits is its own fold (R162). -/
theorem fold_of_lt {T : Nat} (h : T < 0x10000) : fold T = T := foldRounds_of_lt T h

/-- The big-endian value of two bytes (R160). -/
theorem toNat_halfOf (hi lo : Byte) : (halfOf hi lo).toNat = hi.toNat * 256 + lo.toNat := by
  have h := BitVec.toNat_append hi lo
  rw [← Nat.shiftLeft_add_eq_or_of_lt lo.isLt, Nat.shiftLeft_eq] at h
  exact h

end Sys2Proof.Machine
end

