-- ==== Sys2Proof/Laws/Commands.lean ====
section
/-! SUPPORT. What a command can do: every arm of `exec` is one completion with an outcome, and each
outcome is one of the few its rule allows. -/

namespace Sys2Proof.Machine

open Sys2Proof

/-- The outcome a command's completion applies (spec/40_commands_common.md R134). -/
def outcomeOf (i : Instr) (s : State) : CmdOutcome :=
  match i with
  | .nop => finish {}
  | .csumCompute => csumComputeOutcome s.params s.len s.fb
  | .csumVerify => csumVerifyOutcome s.params s.len s.fb
  | .frameEncode seq kind => frameEncodeOutcome seq kind s.params s.len s.fb
  | .frameDecode => frameDecodeOutcome s.params s.len s.strict s.fb

/-- Every command completes in every state, with its outcome (R134). -/
theorem exec_eq_complete (i : Instr) (s : State) : exec i s = .next (complete (outcomeOf i s) s) := by
  cases i <;> rfl

theorem execIllegal_eq (s : State) : execIllegal s = .next (complete (raise .illegal) s) := rfl

@[simp] theorem raise_effects (c : CmdErr) : (raise c).effects = {} := rfl
@[simp] theorem raise_ok (c : CmdErr) : (raise c).ok = false := rfl
@[simp] theorem raise_err (c : CmdErr) : (raise c).err = c := rfl
@[simp] theorem finish_effects (E : Effects) : (finish E).effects = E := rfl
@[simp] theorem finish_ok (E : Effects) : (finish E).ok = true := rfl
@[simp] theorem finish_err (E : Effects) : (finish E).err = .none := rfl
@[simp] theorem finishVerdict_effects (E : Effects) (c : CmdErr) :
    (finishVerdict E c).effects = E := rfl
@[simp] theorem finishVerdict_ok (E : Effects) (c : CmdErr) : (finishVerdict E c).ok = false := rfl
@[simp] theorem finishVerdict_err (E : Effects) (c : CmdErr) : (finishVerdict E c).err = c := rfl
@[simp] theorem applyMem_none (m : Memory) : applyMem Option.none m = m := rfl
@[simp] theorem applyMem_some (a : Nat) (bs : List Byte) (m : Memory) :
    applyMem (some (a, bs)) m = Memory.writeBytes m a bs := rfl
@[simp] theorem applyEffects_empty (s : State) : applyEffects {} s = s := rfl

/-- `P_BUF_BYTES = P_MAX_PAYLOAD + 6` (spec/00_scope.md R6). -/
theorem bufBytes_eq (p : Params) : Config.bufBytes p = p.maxPayload.val + 6 := rfl

theorem inputOutOfRange_iff (p : Params) (len : Half) :
    inputOutOfRange p len = true ↔ Config.bufBytes p < len.toNat := by
  simp [inputOutOfRange]

theorem payloadOutOfRange_iff (p : Params) (len : Half) :
    payloadOutOfRange p len = true ↔ p.maxPayload.val < len.toNat := by
  simp [payloadOutOfRange]

/-- All that CSUM_COMPUTE can answer (spec/41_checksum.md R170). -/
theorem csumComputeOutcome_cases (p : Params) (len : Half) (fb : Memory) :
    (Config.bufBytes p < len.toNat ∧ csumComputeOutcome p len fb = raise .range) ∨
    (len.toNat ≤ Config.bufBytes p ∧ csumComputeOutcome p len fb
      = finish (sumEffects (onesSum (inputBytes fb len.toNat)))) := by
  by_cases h : Config.bufBytes p < len.toNat
  · exact .inl ⟨h, by simp [csumComputeOutcome, inputOutOfRange, h]⟩
  · exact .inr ⟨by omega, by simp [csumComputeOutcome, inputOutOfRange, h]⟩

/-- All that CSUM_VERIFY can answer (spec/41_checksum.md R175). -/
theorem csumVerifyOutcome_cases (p : Params) (len : Half) (fb : Memory) :
    (Config.bufBytes p < len.toNat ∧ csumVerifyOutcome p len fb = raise .range) ∨
    (len.toNat ≤ Config.bufBytes p ∧ onesSum (inputBytes fb len.toNat) = 0xFFFF#16 ∧
      csumVerifyOutcome p len fb = finish (sumEffects (onesSum (inputBytes fb len.toNat)))) ∨
    (len.toNat ≤ Config.bufBytes p ∧ onesSum (inputBytes fb len.toNat) ≠ 0xFFFF#16 ∧
      csumVerifyOutcome p len fb
        = finishVerdict (sumEffects (onesSum (inputBytes fb len.toNat))) .checksum) := by
  by_cases h : Config.bufBytes p < len.toNat
  · exact .inl ⟨h, by simp [csumVerifyOutcome, inputOutOfRange, h]⟩
  · by_cases hS : onesSum (inputBytes fb len.toNat) = 0xFFFF#16
    · exact .inr (.inl ⟨by omega, hS, by simp [csumVerifyOutcome, inputOutOfRange, h, hS]⟩)
    · exact .inr (.inr ⟨by omega, hS, by simp [csumVerifyOutcome, inputOutOfRange, h, hS]⟩)

/-- All that FRAME_ENCODE can answer (spec/42_framer.md R195). -/
theorem frameEncodeOutcome_cases (seq : BitVec 1) (kind : BitVec 2) (p : Params) (len : Half)
    (fb : Memory) :
    (p.maxPayload.val < len.toNat ∧ frameEncodeOutcome seq kind p len fb = raise .range) ∨
    (len.toNat ≤ p.maxPayload.val ∧ frameEncodeOutcome seq kind p len fb = finish
      { mem := some (headerIndex,
          frameHeader (seqByte seq) (kindByte kind) (payloadBytes fb len.toNat))
        len := some (BitVec.ofNat 16 (Config.headerBytes + len.toNat)) }) := by
  by_cases h : p.maxPayload.val < len.toNat
  · exact .inl ⟨h, by simp [frameEncodeOutcome, payloadOutOfRange, h]⟩
  · exact .inr ⟨by omega, by simp [frameEncodeOutcome, payloadOutOfRange, h]⟩

/-- All that FRAME_DECODE can answer (spec/42_framer.md R205): an error with no effect, or the four
fields of a frame that passed every check. -/
theorem frameDecodeOutcome_cases (p : Params) (len : Half) (strict : Bool) (fb : Memory) :
    (∃ c, c ≠ .none ∧ frameDecodeOutcome p len strict fb = raise c) ∨
    (len.toNat ≤ Config.bufBytes p ∧ Config.headerBytes ≤ len.toNat ∧
      (be16 (inputBytes fb len.toNat) 2).toNat = len.toNat - Config.headerBytes ∧
      onesSum (inputBytes fb len.toNat) = 0xFFFF#16 ∧
      (strict = true → fieldsInRange (inputBytes fb len.toNat) = true) ∧
      frameDecodeOutcome p len strict fb = finish
        { rxSeq := some (byteAt (inputBytes fb len.toNat) 0)
          rxKind := some (byteAt (inputBytes fb len.toNat) 1)
          rxLen := some (be16 (inputBytes fb len.toNat) 2)
          rxCsum := some (be16 (inputBytes fb len.toNat) 4) }) := by
  unfold frameDecodeOutcome
  simp only
  split
  · exact .inl ⟨_, by decide, rfl⟩
  · rename_i h0
    rw [inputOutOfRange_iff] at h0
    split
    · exact .inl ⟨_, by decide, rfl⟩
    · split
      · exact .inl ⟨_, by decide, rfl⟩
      · split
        · exact .inl ⟨_, by decide, rfl⟩
        · split
          · exact .inl ⟨_, by decide, rfl⟩
          · rename_i h1 h2 h3 h4
            refine .inr ⟨by omega, by omega, not_not.1 h2, not_not.1 h3, ?_, rfl⟩
            simpa using h4

/-- A header has six bytes (spec/30_encoding.md R106). -/
@[simp] theorem length_frameHeader (s k : Byte) (p : List Byte) : (frameHeader s k p).length = 6 :=
  rfl

end Sys2Proof.Machine
end

