-- ==== Sys2Proof/Laws/Memory.lean ====
section
/-! SUPPORT. What the buffer's reads and writes do, and that every write keeps the canonical form. -/

namespace Sys2Proof.Machine

open Sys2Proof

@[simp] theorem Memory.read_nil (i : Nat) : Memory.read [] i = Config.unwrittenByte := rfl

@[simp] theorem Memory.read_cons (k : Nat) (b : Byte) (rest : Memory) (i : Nat) :
    Memory.read ((k, b) :: rest) i = if k = i then b else Memory.read rest i := rfl

@[simp] theorem Memory.writeBytes_nil (m : Memory) (a : Nat) : Memory.writeBytes m a [] = m := rfl

@[simp] theorem Memory.writeBytes_cons (m : Memory) (a : Nat) (b : Byte) (bs : List Byte) :
    Memory.writeBytes m a (b :: bs) = Memory.writeBytes (Memory.write m a b) (a + 1) bs := rfl

@[simp] theorem Memory.readBytes_zero (m : Memory) (a : Nat) : Memory.readBytes m a 0 = [] := rfl

@[simp] theorem Memory.readBytes_succ (m : Memory) (a n : Nat) :
    Memory.readBytes m a (n + 1) = Memory.read m a :: Memory.readBytes m (a + 1) n := rfl

@[simp] theorem Memory.canonicalFrom_cons (lo k : Nat) (b : Byte) (rest : Memory) :
    Memory.canonicalFrom lo ((k, b) :: rest) = true ↔
      lo ≤ k ∧ b ≠ Config.unwrittenByte ∧ Memory.canonicalFrom (k + 1) rest = true := by
  simp [Memory.canonicalFrom, and_assoc]

@[simp] theorem Memory.canonicalFrom_nil (lo : Nat) : Memory.canonicalFrom lo [] = true := rfl

/-! ### The canonical form -/

theorem Memory.canonicalFrom_mono {lo lo' : Nat} {m : Memory} (h : lo' ≤ lo)
    (hm : Memory.canonicalFrom lo m = true) : Memory.canonicalFrom lo' m = true := by
  cases m with
  | nil => rfl
  | cons c rest =>
    obtain ⟨k, b⟩ := c
    simp only [Memory.canonicalFrom_cons] at hm ⊢
    exact ⟨by omega, hm.2⟩

/-- Below the first listed index everything is unlisted. -/
theorem Memory.read_of_canonicalFrom {lo i : Nat} {m : Memory}
    (hm : Memory.canonicalFrom lo m = true) (hi : i < lo) :
    Memory.read m i = Config.unwrittenByte := by
  induction m generalizing lo with
  | nil => rfl
  | cons c rest ih =>
    obtain ⟨hk, -, hr⟩ := (Memory.canonicalFrom_cons lo c.1 c.2 rest).1 hm
    have hne : c.1 ≠ i := by omega
    show (if c.1 = i then c.2 else Memory.read rest i) = _
    rw [if_neg hne]
    exact ih hr (by omega)

theorem Memory.canonicalFrom_write {lo i : Nat} {m : Memory} (b : Byte)
    (hm : Memory.canonicalFrom lo m = true) (hi : lo ≤ i) :
    Memory.canonicalFrom lo (Memory.write m i b) = true := by
  induction m generalizing lo with
  | nil =>
    unfold Memory.write
    split <;> simp_all
  | cons c rest ih =>
    obtain ⟨k, v⟩ := c
    obtain ⟨hk, hv, hr⟩ := (Memory.canonicalFrom_cons lo k v rest).1 hm
    unfold Memory.write
    split
    · split
      · exact hm
      · simp only [Memory.canonicalFrom_cons]
        exact ⟨hi, ‹_›, by omega, hv, hr⟩
    · split
      · subst i
        split
        · exact Memory.canonicalFrom_mono (by omega) hr
        · simp only [Memory.canonicalFrom_cons]
          exact ⟨hi, ‹_›, hr⟩
      · simp only [Memory.canonicalFrom_cons]
        exact ⟨hk, hv, ih hr (by omega)⟩

/-- Every write keeps the canonical form. -/
theorem Memory.wf_write {m : Memory} (i : Nat) (b : Byte) (hm : Memory.wf m = true) :
    Memory.wf (Memory.write m i b) = true :=
  Memory.canonicalFrom_write b hm (Nat.zero_le i)

theorem Memory.wf_writeBytes {m : Memory} (a : Nat) (bs : List Byte) (hm : Memory.wf m = true) :
    Memory.wf (Memory.writeBytes m a bs) = true := by
  induction bs generalizing m a with
  | nil => exact hm
  | cons b bs ih => exact ih (a + 1) (Memory.wf_write a b hm)

theorem Memory.wf_nil : Memory.wf [] = true := rfl

/-! ### Indexes stay below a bound -/

theorem Memory.below_write {n i : Nat} {m : Memory} (b : Byte) (hm : Memory.below n m = true)
    (hi : i < n) : Memory.below n (Memory.write m i b) = true := by
  induction m with
  | nil =>
    unfold Memory.write
    split <;> simp [Memory.below, hi]
  | cons c rest ih =>
    obtain ⟨k, v⟩ := c
    simp only [Memory.below, List.all_cons, Bool.and_eq_true, decide_eq_true_eq] at hm ih
    unfold Memory.write
    split
    · split <;> simp [Memory.below, hm, hi]
    · split
      · split <;> simp [Memory.below, hm, hi]
      · simp [Memory.below, hm, ih hm.2]

theorem Memory.below_writeBytes {n a : Nat} {m : Memory} (bs : List Byte)
    (hm : Memory.below n m = true) (ha : a + bs.length ≤ n) :
    Memory.below n (Memory.writeBytes m a bs) = true := by
  induction bs generalizing m a with
  | nil => exact hm
  | cons b bs ih =>
    rw [List.length_cons] at ha
    exact ih (Memory.below_write b hm (by omega)) (by omega)

/-! ### A read after a write -/

theorem Memory.read_write_other {m : Memory} {i j : Nat} (b : Byte) (h : j ≠ i) :
    Memory.read (Memory.write m i b) j = Memory.read m j := by
  induction m with
  | nil =>
    unfold Memory.write
    split
    · rfl
    · simp [Ne.symm h]
  | cons c rest ih =>
    obtain ⟨k, v⟩ := c
    unfold Memory.write
    split
    · split <;> simp [Ne.symm h]
    · split
      · subst i
        split <;> simp [Ne.symm h]
      · simp [ih]

theorem Memory.read_write_same_from {lo i : Nat} {m : Memory} (b : Byte)
    (hm : Memory.canonicalFrom lo m = true) : Memory.read (Memory.write m i b) i = b := by
  induction m generalizing lo with
  | nil =>
    unfold Memory.write
    split <;> simp_all
  | cons c rest ih =>
    obtain ⟨k, v⟩ := c
    obtain ⟨-, -, hr⟩ := (Memory.canonicalFrom_cons lo k v rest).1 hm
    unfold Memory.write
    split
    · split
      · have hki : k ≠ i := by omega
        rw [Memory.read_cons, if_neg hki, ‹b = _›]
        exact Memory.read_of_canonicalFrom hr (by omega)
      · simp
    · split
      · subst i
        split
        · simp only [*]
          exact Memory.read_of_canonicalFrom hr (by omega)
        · simp
      · have : k ≠ i := by omega
        simp only [Memory.read_cons, if_neg this]
        exact ih hr

/-- A read after a write to the same byte gives the byte written. -/
theorem Memory.read_write_same {m : Memory} (i : Nat) (b : Byte) (hm : Memory.wf m = true) :
    Memory.read (Memory.write m i b) i = b :=
  Memory.read_write_same_from b hm

/-- `MemWrite` leaves every byte outside the bytes written alone. -/
theorem Memory.read_writeBytes_outside {m : Memory} {a j : Nat} (bs : List Byte)
    (h : j < a ∨ a + bs.length ≤ j) :
    Memory.read (Memory.writeBytes m a bs) j = Memory.read m j := by
  induction bs generalizing m a with
  | nil => rfl
  | cons b bs ih =>
    rw [List.length_cons] at h
    rw [Memory.writeBytes_cons, ih (by omega), Memory.read_write_other b (by omega)]

/-- `MemWrite` then a read inside the bytes written. -/
theorem Memory.read_writeBytes_inside {m : Memory} {a j : Nat} (bs : List Byte)
    (hm : Memory.wf m = true) (hj : j < bs.length) :
    Memory.read (Memory.writeBytes m a bs) (a + j) = bs.getD j 0#8 := by
  induction bs generalizing m a j with
  | nil => simp at hj
  | cons b bs ih =>
    rw [Memory.writeBytes_cons]
    cases j with
    | zero =>
      rw [Memory.read_writeBytes_outside bs (by omega)]
      exact Memory.read_write_same a b hm
    | succ j =>
      have := ih (m := Memory.write m a b) (a := a + 1) (j := j) (Memory.wf_write a b hm)
        (by simpa using hj)
      rw [show a + (j + 1) = a + 1 + j by omega, this]
      rfl

/-! ### Sequences of bytes -/

@[simp] theorem Memory.length_readBytes (m : Memory) (a n : Nat) :
    (Memory.readBytes m a n).length = n := by
  induction n generalizing a with
  | zero => rfl
  | succ n ih => simp [ih]

theorem Memory.getD_readBytes (m : Memory) (a n j : Nat) (h : j < n) :
    (Memory.readBytes m a n).getD j 0#8 = Memory.read m (a + j) := by
  induction n generalizing a j with
  | zero => omega
  | succ n ih =>
    cases j with
    | zero => rfl
    | succ j =>
      rw [Memory.readBytes_succ, List.getD_cons_succ, ih (a + 1) j (by omega)]
      congr 1
      omega

theorem Memory.readBytes_congr {m m' : Memory} {a n : Nat}
    (h : ∀ j, a ≤ j → j < a + n → Memory.read m j = Memory.read m' j) :
    Memory.readBytes m a n = Memory.readBytes m' a n := by
  induction n generalizing a with
  | zero => rfl
  | succ n ih =>
    rw [Memory.readBytes_succ, Memory.readBytes_succ, h a (by omega) (by omega),
      ih (fun j h1 h2 => h j (by omega) (by omega))]

theorem Memory.readBytes_add (m : Memory) (a n k : Nat) :
    Memory.readBytes m a (n + k) = Memory.readBytes m a n ++ Memory.readBytes m (a + n) k := by
  induction n generalizing a with
  | zero => simp
  | succ n ih =>
    rw [show n + 1 + k = (n + k) + 1 by omega, Memory.readBytes_succ, ih (a + 1),
      Memory.readBytes_succ, show a + 1 + n = a + (n + 1) by omega]
    rfl

/-- The bytes of a `MemWrite`, read back. -/
theorem Memory.readBytes_writeBytes {m : Memory} (a : Nat) (bs : List Byte)
    (hm : Memory.wf m = true) :
    Memory.readBytes (Memory.writeBytes m a bs) a bs.length = bs := by
  induction bs generalizing m a with
  | nil => rfl
  | cons b bs ih =>
    rw [List.length_cons, Memory.readBytes_succ, Memory.writeBytes_cons,
      ih (a + 1) (Memory.wf_write a b hm), Memory.read_writeBytes_outside bs (by omega),
      Memory.read_write_same a b hm]

/-- A `MemRead` that a `MemWrite` does not reach. -/
theorem Memory.readBytes_writeBytes_outside {m : Memory} {a k n : Nat} (bs : List Byte)
    (h : k + n ≤ a ∨ a + bs.length ≤ k) :
    Memory.readBytes (Memory.writeBytes m a bs) k n = Memory.readBytes m k n :=
  Memory.readBytes_congr (fun _ _ _ => Memory.read_writeBytes_outside bs (by omega))

/-! ### Equal contents are equal lists -/

theorem Memory.eq_of_read_eq {lo : Nat} {m m' : Memory}
    (hm : Memory.canonicalFrom lo m = true) (hm' : Memory.canonicalFrom lo m' = true)
    (h : ∀ i, Memory.read m i = Memory.read m' i) : m = m' := by
  induction m generalizing lo m' with
  | nil =>
    cases m' with
    | nil => rfl
    | cons c rest =>
      obtain ⟨-, hv, -⟩ := (Memory.canonicalFrom_cons lo c.1 c.2 rest).1 hm'
      have := h c.1
      simp only [Memory.read_nil] at this
      exact absurd (this.trans (by simp [Memory.read])) (Ne.symm hv)
  | cons c rest ih =>
    obtain ⟨k, v⟩ := c
    obtain ⟨hk, hv, hr⟩ := (Memory.canonicalFrom_cons lo k v rest).1 hm
    cases m' with
    | nil =>
      have := h k
      simp only [Memory.read_cons, if_true, Memory.read_nil] at this
      exact absurd this hv
    | cons c' rest' =>
      obtain ⟨k', v'⟩ := c'
      obtain ⟨hk', hv', hr'⟩ := (Memory.canonicalFrom_cons lo k' v' rest').1 hm'
      have hkk : k = k' := by
        rcases Nat.lt_trichotomy k k' with hlt | heq | hgt
        · have h1 := h k
          rw [Memory.read_cons, if_pos rfl, Memory.read_of_canonicalFrom
            (lo := k') ((Memory.canonicalFrom_cons k' k' v' rest').2 ⟨Nat.le_refl _, hv', hr'⟩)
            hlt] at h1
          exact absurd h1 hv
        · exact heq
        · have h1 := h k'
          rw [Memory.read_cons (i := k') (k := k'), if_pos rfl, Memory.read_of_canonicalFrom
            (lo := k) ((Memory.canonicalFrom_cons k k v rest).2 ⟨Nat.le_refl _, hv, hr⟩)
            hgt] at h1
          exact absurd h1.symm hv'
      subst hkk
      have hvv : v = v' := by simpa using h k
      subst hvv
      refine congrArg _ (ih hr hr' (fun i => ?_))
      by_cases hi : k = i
      · subst hi
        rw [Memory.read_of_canonicalFrom hr (by omega), Memory.read_of_canonicalFrom hr' (by omega)]
      · simpa [hi] using h i

/-- Two buffers in canonical form that read the same everywhere are the same list. -/
theorem Memory.wf_ext {m m' : Memory} (hm : Memory.wf m = true) (hm' : Memory.wf m' = true)
    (h : ∀ i, Memory.read m i = Memory.read m' i) : m = m' :=
  Memory.eq_of_read_eq hm hm' h

end Sys2Proof.Machine
end

