-- ==== Sys2Proof/Laws/PerInstr.lean ====
section
/-! SUPPORT. Facts about every command as syntax, one lemma per constructor. -/

namespace Sys2Proof.Laws.ReservedBitsClear

open Sys2Proof

/-- The word of a command has its reserved bits clear (spec/30_encoding.md R100, R103). -/
def Statement (i : Instr) : Prop := reservedField (encode i) = 0

theorem nop : Statement .nop := rfl

theorem csumCompute : Statement .csumCompute := rfl

theorem csumVerify : Statement .csumVerify := rfl

theorem frameEncode (seq : BitVec 1) (kind : BitVec 2) : Statement (.frameEncode seq kind) := by
  unfold Statement
  revert seq kind
  decide

theorem frameDecode : Statement .frameDecode := rfl

end Sys2Proof.Laws.ReservedBitsClear
end

