-- ==== Sys2Proof/Laws/Step.lean ====
section
/-! SUPPORT. What a step can do (spec/00_scope.md R9). -/

namespace Sys2Proof.Machine

open Sys2Proof Sys2Proof.Safety

theorem step_host {s : State} {t : Txn} {rest : List Move} (h : s.moves = .host t :: rest) :
    step s = .next (hostStep t { s with moves := rest }) := by
  simp [step, h, takeMove]

theorem step_engine {s : State} {rest : List Move} (h : s.moves = .engine :: rest) :
    step s = engineStep { s with moves := rest } := by
  simp [step, h, takeMove]

theorem step_reset {s : State} {rest : List Move} (h : s.moves = .reset :: rest) :
    step s = .next (resetStep { s with moves := rest }) := by
  simp [step, h, takeMove]

theorem engineStep_of_legal {s : State} {w : Word} {i : Instr} (hp : s.pending = some w)
    (hd : decodeCmd w = .ok i) : engineStep s = exec i s := by
  simp [engineStep, hp, hd]

theorem engineStep_of_illegal {s : State} {w : Word} {r : IllegalWord} (hp : s.pending = some w)
    (hd : decodeCmd w = .error r) : engineStep s = execIllegal s := by
  simp [engineStep, hp, hd]

theorem engineStep_idle {s : State} (hp : s.pending = Option.none) :
    engineStep s = .refused .engineStepNotEnabled := by
  simp [engineStep, hp]

theorem runSteps_succ_of_next {s t : State} (k : Nat) (h : step s = .next t) :
    runSteps (k + 1) s = runSteps k t := by
  simp [runSteps, h]

/-- An engine step that gives a next state is one completion of the pending word: with the outcome of
the command it decodes to, or with ILLEGAL (spec/40_commands_common.md R134). -/
theorem engineStep_cases {s t : State} (h : engineStep s = .next t) :
    ∃ w, s.pending = some w ∧
      ((∃ i, decodeCmd w = .ok i ∧ t = complete (outcomeOf i s) s) ∨
       (∃ r, decodeCmd w = .error r ∧ t = complete (raise .illegal) s)) := by
  unfold engineStep at h
  split at h
  · cases h
  · rename_i w hw
    refine ⟨w, hw, ?_⟩
    split at h
    · rename_i i hi
      rw [exec_eq_complete] at h
      injection h with h
      exact .inl ⟨i, hi, h.symm⟩
    · rename_i r hr
      rw [execIllegal_eq] at h
      injection h with h
      exact .inr ⟨r, hr, h.symm⟩

/-- Everything a step can do when it gives a next state: idle, host, engine (its turn, or the end of
the schedule), reset. -/
theorem step_cases {s t : State} (h : step s = .next t) :
    (s.moves = [] ∧ s.pending = Option.none ∧ t = s) ∨
    (s.moves = [] ∧ engineStep s = .next t) ∨
    (∃ x rest, s.moves = .host x :: rest ∧ t = hostStep x { s with moves := rest }) ∨
    (∃ rest, s.moves = .engine :: rest ∧ engineStep { s with moves := rest } = .next t) ∨
    (∃ rest, s.moves = .reset :: rest ∧ t = resetStep { s with moves := rest }) := by
  unfold step at h
  split at h
  · rename_i hm
    split at h
    · exact .inr (.inl ⟨hm, h⟩)
    · rename_i hb
      injection h with h
      refine .inl ⟨hm, ?_, h.symm⟩
      simpa [busy] using hb
  · rename_i m rest hm
    cases m with
    | host x =>
      injection h with h
      exact .inr (.inr (.inl ⟨x, rest, hm, h.symm⟩))
    | engine => exact .inr (.inr (.inr (.inl ⟨rest, hm, h⟩)))
    | reset =>
      injection h with h
      exact .inr (.inr (.inr (.inr ⟨rest, hm, h.symm⟩)))

end Sys2Proof.Machine
end

