-- ==== Sys2Proof/Machine/Ports.lean ====
section
/-! DEFINITION. The signal-level ports (spec/00_scope.md R10, informative): which step the inputs sampled at
a rising clock edge ask for, and what the outputs carry.  `step` does not use them; the schedule of
`State` holds steps, not signals (log 19). -/

namespace Sys2Proof.Machine

open Sys2Proof

/-- The inputs at a rising edge of `clk` (spec/00_scope.md R10). -/
structure PortInputs where
  rstN : Bool
  busReq : Bool
  busWe : Bool
  busSize : BitVec 2
  busAddr : Offset
  busWdata : Word
deriving DecidableEq, Repr

/-- The outputs (spec/00_scope.md R10). -/
structure PortOutputs where
  busRdata : Word
  busAck : Bool
  /-- "error response, valid with `bus_ack`"; without it 0 (DESIGN CHOICE, log 19). -/
  busErr : Bool
  irq : Bool
deriving DecidableEq, Repr

/-- `bus_size`: "0 = 1 byte, 2 = 4 bytes; 1 and 3 are illegal sizes" (spec/00_scope.md R10).  For the
illegal codes, any count but 1 and 4 gets the same error response (spec/20_memory.md R74; log 19). -/
def sizeOfCode (c : BitVec 2) : Nat :=
  match c.toNat with
  | 0 => 1
  | 1 => 2
  | 2 => 4
  | _ => 8

/-- The transaction presented on the bus. -/
def PortInputs.txn (x : PortInputs) : Txn := ⟨x.busWe, sizeOfCode x.busSize, x.busAddr, x.busWdata⟩

/-- A transaction presented while `rst_n` = 0 "is not acknowledged" (spec/70_reset_and_hazards.md
R270). -/
def PortInputs.accepted (x : PortInputs) : Bool := x.rstN && x.busReq

/-- The step the inputs ask for: a reset step while `rst_n` is low, a host step for an accepted
transaction, else none (the engine's step needs no input). -/
def PortInputs.move (x : PortInputs) : Option Move :=
  if !x.rstN then some .reset
  else if x.busReq then some (.host x.txn)
  else none

/-- The outputs with the step the inputs ask for, from the state before it: the response of an accepted
transaction, and the level of `irq` after the step (spec/60_exceptions.md R240).  R10 calls `bus_err`
"valid with `bus_ack`" and leaves the levels of `bus_err` and `bus_rdata` without it open; DESIGN CHOICE,
safe (log 19): both are 0 then. -/
def PortInputs.outputs (x : PortInputs) (s : State) : PortOutputs :=
  if !x.rstN then ⟨0#32, false, false, irq (resetStep s)⟩
  else if x.busReq then
    let r := busTransaction x.txn s
    ⟨r.2.rdata, true, r.2.err, irq r.1⟩
  else ⟨0#32, false, false, irq s⟩

end Sys2Proof.Machine
end

