-- ==== Sys2Proof/Tests/Slice0.lean ====
section
/-! SUPPORT. The model's own tests.  Expected values are the words of spec/30_encoding.md R104 written
out bit by bit and the vectors of spec/95_test_vectors.md, each named in its docstring.  Every
`witness_<Name>` shows states and operands that meet the hypotheses of `Obligations.<Name>`, clause by
clause, at the boundaries of each range. -/

namespace Sys2Proof.Tests

open Sys2Proof Sys2Proof.Machine Sys2Proof.Safety

/-! ## Small states -/

/-- A CFE with a 13-byte payload limit: a 19-byte buffer, which holds HF exactly. -/
def tiny : Params := ⟨⟨13, by decide⟩⟩

/-- The smallest legal CFE: `P_MAX_PAYLOAD = 0`. -/
def least : Params := ⟨⟨0, by decide⟩⟩

/-- After power-on, with the bytes `bs` from `FB[0]` on and LEN = `n`. -/
def loaded (p : Params) (bs : List Byte) (n : Nat) : State :=
  { State.powerOn p (Memory.writeBytes [] 0 bs) with len := .ofNat 16 n }

/-- The same with STRICT = 1. -/
def strictly (s : State) : State := { s with strict := true }

/-- The same with the word `w` pending. -/
def issued (w : Word) (s : State) : State := { s with pending := some w, done := false }

/-- The same with the schedule `ms`. -/
def scheduled (ms : List Move) (s : State) : State := { s with moves := ms }

/-- A field of the state an outcome gives, if it gives one. -/
def got {α : Type} (f : State → α) : Host.Outcome State Fault Refusal → Option α
  | .next t => some (f t)
  | .fault _ => none
  | .refused _ => none

/-- STATUS, with another register, as a pair. -/
def statusAnd (r : Reg) (s : State) : Word × Word := (readReg .status s, readReg r s)

/-- "Hello, World!" -/
def hello : List Byte :=
  [0x48#8, 0x65#8, 0x6C#8, 0x6C#8, 0x6F#8, 0x2C#8, 0x20#8, 0x57#8, 0x6F#8, 0x72#8, 0x6C#8, 0x64#8,
    0x21#8]

/-- HF of spec/95_test_vectors.md section 0, its first byte as an argument. -/
def hfWith (b : Byte) : List Byte := [b, 0x00#8, 0x00#8, 0x0D#8, 0xBE#8, 0xC6#8] ++ hello

/-- The reference CFE after power-on. -/
def fresh : State := State.reset

/-- A 4-byte write and read. -/
def wr (off : Offset) (v : Word) : Move := .host ⟨true, 4, off, v⟩

def rd (off : Offset) : Move := .host ⟨false, 4, off, 0#32⟩

/-! ## Decoding: the words of R104, bit by bit -/

theorem test_decode_nop : decodeCmd 0b00000000000000000000000000000000#32 = .ok .nop := by decide

theorem test_decode_csumCompute :
    decodeCmd 0b00000000000000000000000000000001#32 = .ok .csumCompute := by decide

theorem test_decode_csumVerify :
    decodeCmd 0b00000000000000000000000000000010#32 = .ok .csumVerify := by decide

/-- SEQ is bit 4 alone. -/
theorem test_decode_frameEncode_seq :
    decodeCmd 0b00000000000000000000000000010011#32 = .ok (.frameEncode 1 0) := by decide

/-- KIND is bits 6 and 5, bit 6 the higher. -/
theorem test_decode_frameEncode_kind :
    decodeCmd 0b00000000000000000000000001000011#32 = .ok (.frameEncode 0 2) := by decide

theorem test_decode_frameDecode :
    decodeCmd 0b00000000000000000000000000000100#32 = .ok .frameDecode := by decide

/-- V-ILL-01, V-ILL-03, V-ILL-09, V-ILL-10. -/
theorem test_decode_refusals :
    decodeCmd 0x00000005#32 = .error .reservedOp ∧
    decodeCmd 0x00000011#32 = .error .strayOperand ∧
    decodeCmd 0x00000083#32 = .error .reservedBits ∧
    decodeCmd 0x80000000#32 = .error .reservedBits := by decide

/-- A command is one 32-bit word (R100). -/
theorem test_decodeTableWord :
    decodeTableWord 32 0x73 = some (.frameEncode 1 3) ∧ decodeTableWord 64 0x73 = none := by decide

/-! ## WellFormed: each check refuses an ill-formed term -/

/-- `<seq>` is 0 or 1 (R113). -/
theorem test_seq_two_refused :
    (AsmCommand.frameEncode 2 .kindData).wellFormed = false ∧
    assemble (.frameEncode 2 .kindData) = none := by decide

/-- `<kind>` is 0 to 3 (R113). -/
theorem test_kind_four_refused :
    (AsmCommand.frameEncode 0 (.number 4)).wellFormed = false ∧
    assemble (.frameEncode 0 (.number 4)) = none := by decide

/-- `frame.encode 1, END` is 0x73 (V-FR-05). -/
theorem test_assemble_frameEncode : assemble (.frameEncode 1 .kindEnd) = some 0x00000073#32 := by
  decide

/-! ## The commands, on the vectors of spec/95_test_vectors.md -/

/-- V-NOP-02: NOP keeps WERR. -/
theorem test_nop_keeps_werr :
    got (readReg .status) (exec .nop { fresh with werr := true }) = some 0x0000000E#32 := by decide

/-- V-ILL-06. -/
theorem test_illegal_status :
    got (readReg .status) (step (issued 0x00000010#32 fresh)) = some 0x00000062#32 := by decide

/-- V-CS-09: the end-around carry. -/
theorem test_csumCompute_carry :
    got (readReg .result) (exec .csumCompute (loaded tiny [0x80#8, 0x00#8, 0x80#8, 0x00#8] 4))
      = some 0x0001FFFE#32 := by decide

/-- V-CS-06: an odd last byte is a high byte. -/
theorem test_csumCompute_odd :
    got (readReg .result) (exec .csumCompute (loaded tiny [0xAB#8] 1)) = some 0xAB0054FF#32 := by
  decide

/-- V-CS-02: the empty input does not verify, and RESULT is written all the same. -/
theorem test_csumVerify_empty :
    got (statusAnd .result) (exec .csumVerify fresh) = some (0x00000032#32, 0x0000FFFF#32) := by
  decide

/-- V-CS-17: an odd-length frame verifies. -/
theorem test_csumVerify_odd_frame :
    got (statusAnd .result) (exec .csumVerify
      (loaded tiny [0x00#8, 0x00#8, 0x00#8, 0x01#8, 0x54#8, 0xFE#8, 0xAB#8] 7))
      = some (0x00000006#32, 0xFFFF0000#32) := by decide

/-- V-FR-06: an odd payload; the pad byte is in no frame. -/
theorem test_frameEncode_get :
    got (fun t => (Memory.readBytes t.fb 0 7, t.len)) (exec (.frameEncode 0 2)
      (loaded tiny [0xFF#8, 0xFF#8, 0xFF#8, 0xFF#8, 0xFF#8, 0xFF#8, 0x61#8, 0x2E#8, 0x74#8, 0x78#8,
        0x74#8] 5))
      = some ([0x00#8, 0x02#8, 0x00#8, 0x05#8, 0xB6#8, 0x51#8, 0x61#8], 11#16) := by decide

/-- V-FR-11, on a smaller CFE: LEN one past `P_MAX_PAYLOAD`. -/
theorem test_frameEncode_range :
    got (fun t => (statusWord t, t.len, t.fb)) (exec (.frameEncode 0 0) (loaded tiny [] 14))
      = some (0x00000052#32, 14#16, []) := by decide

/-- V-FR-26: kind 4 is reported raw when STRICT = 0. -/
theorem test_frameDecode_raw_kind :
    got (statusAnd .rxHdr) (exec .frameDecode
      (loaded tiny [0x00#8, 0x04#8, 0x00#8, 0x00#8, 0xFF#8, 0xFB#8] 6))
      = some (0x00000006#32, 0x00040000#32) := by decide

/-- V-FR-28: CHECKSUM comes before FIELD. -/
theorem test_frameDecode_order :
    got (statusAnd .rxHdr) (exec .frameDecode
      (strictly (loaded tiny [0x05#8, 0x00#8, 0x00#8, 0x00#8, 0x00#8, 0x00#8] 6)))
      = some (0x00000032#32, 0x00000000#32) := by decide

/-! ## The bus, the flags, the interrupt and reset -/

/-- V-BUS-05 and V-BUS-06: the last buffer byte, and one past it. -/
theorem test_buffer_end :
    (busTransaction ⟨false, 1, 0x10405#17, 0#32⟩ { fresh with fb := [(1029, 0x5A#8)] }).2
      = ⟨0x0000005A#32, false⟩ ∧
    (busTransaction ⟨false, 1, 0x10406#17, 0#32⟩ fresh).2 = ⟨0#32, true⟩ := by decide

/-- V-BUS-02, V-BUS-03, V-BUS-08: wrong size, misaligned, size 2. -/
theorem test_bad_accesses :
    busTransaction ⟨true, 1, 0x0000C#17, 5#32⟩ fresh = (fresh, ⟨0#32, true⟩) ∧
    busTransaction ⟨false, 4, 0x00002#17, 0#32⟩ fresh = (fresh, ⟨0#32, true⟩) ∧
    busTransaction ⟨false, 2, 0x10000#17, 0#32⟩ fresh = (fresh, ⟨0#32, true⟩) := by decide

/-- V-BUS-10, V-BUS-11: CFG, and CTRL written with ones reads 3. -/
theorem test_cfg_and_ctrl :
    readReg .cfg fresh = 0x04060400#32 ∧
    readReg .ctrl (writeReg .ctrl 0xFFFFFFFF#32 fresh) = 0x00000003#32 := by decide

/-- V-LC-02: a LEN write while a command is pending is dropped, and WERR says so. -/
theorem test_dropped_write :
    got (fun t => (statusWord t, t.len)) (step (scheduled [wr 0x0C#17 5#32]
      (issued 0x00000001#32 (loaded tiny [] 3)))) = some (0x00000009#32, 3#16) := by decide

/-- V-LC-06: the STATUS write clears DONE and WERR and keeps ERR. -/
theorem test_status_w1c :
    statusWord (writeReg .status 0xFFFFFFFF#32
      { fresh with err := .illegal, werr := true, done := true }) = 0x00000060#32 := by decide

/-- V-LC-07: the interrupt rises at the CTRL write. -/
theorem test_irq_level :
    irq { fresh with done := true } = false ∧
    irq (writeReg .ctrl 1#32 { fresh with done := true }) = true := by decide

/-- V-LC-11: a reset discards the pending command and keeps the buffer. -/
theorem test_reset_keeps_buffer :
    got (fun t => (statusWord t, t.len, t.pending, Memory.read t.fb 0))
      (step (scheduled [.reset] (issued 0x00000003#32 (loaded tiny [0xAA#8] 13))))
      = some (0x00000000#32, 0#16, none, 0xAA#8) := by decide

/-- A two-statement host program (R114): NOP runs from reset and STATUS is read as 0x06 (V-LC-01). -/
theorem test_host_program :
    got (fun t => t.responses.map BusResponse.rdata)
      (runSteps 5 (scheduled (programMoves [.run 0x00000000#32 1, .rd .status]) fresh))
      = some [0#32, 0x00000001#32, 0x00000006#32, 0x00000006#32] := by decide

/-- `fill` is one byte write per byte, offsets rising (R114, program P1). -/
theorem test_fill :
    programMoves [.fill 0 [0x48#8, 0x65#8]]
      = [.host ⟨true, 1, 0x10000#17, 0x48#32⟩, .host ⟨true, 1, 0x10001#17, 0x65#32⟩] := by decide

/-- R10 and R270: a CFG read on the pins is acknowledged, and is not while reset is held. -/
theorem test_ports :
    (PortInputs.outputs ⟨true, true, false, 2#2, 0x0001C#17, 0#32⟩ fresh)
      = ⟨0x04060400#32, true, false, false⟩ ∧
    (PortInputs.outputs ⟨false, true, false, 2#2, 0x0001C#17, 0#32⟩ fresh).busAck = false ∧
    (PortInputs.outputs ⟨true, true, false, 1#2, 0x0001C#17, 0#32⟩ fresh).busErr = true := by decide

/-- R291: a run with a command still pending has not ended. -/
theorem test_runEnded : runEnded (issued 0#32 fresh) = false ∧ runEnded fresh = true := by decide

/-- V-LC-01: the two STATUS reads are observed, and the CMD write's response is not (R291). -/
theorem test_observation :
    (observation (scheduled [wr 0x00#17 0#32, rd 0x04#17, .engine, rd 0x04#17] fresh)).map
      Observation.reads = some [⟨0x00000001#32, false⟩, ⟨0x00000006#32, false⟩] := by decide

theorem test_reset_memory_wf : Memory.wf State.reset.fb = true := rfl

/-! ## Witnesses -/

/-- The invariant of a state built by `loaded` from at most 19 bytes. -/
theorem inv_hello : Inv (loaded tiny (hfWith 0x00#8) 13) :=
  ⟨by decide, by decide, by decide, by decide, by decide, by decide, by decide⟩

theorem inv_issued : Inv (issued 0x00000003#32 (loaded tiny (hfWith 0x00#8) 13)) :=
  ⟨by decide, by decide, by decide, by decide, by decide, by decide, by decide⟩

theorem inv_least : Inv (loaded least [] 0) :=
  ⟨by decide, by decide, by decide, by decide, by decide, by decide, by decide⟩

/-- The first and the last illegal OP, each reserved bit end, and each stray operand bit. -/
theorem witness_IllegalWordsAreIssuedAndFail :
    (∀ w ∈ [0x00000005#32, 0x0000000F#32, 0x00000080#32, 0x80000000#32, 0x00000010#32,
      0x00000044#32], ∃ r, decodeCmd w = .error r) ∧
    (scheduled [wr 0x00#17 0x80#32, .engine] fresh).pending = none ∧
    (scheduled [wr 0x00#17 0x80#32, .engine] fresh).moves
      = .host ⟨true, 4, 0x00#17, 0x80#32⟩ :: .engine :: [] := by
  refine ⟨?_, rfl, rfl⟩
  simp only [List.forall_mem_cons]
  exact ⟨⟨_, rfl⟩, ⟨_, rfl⟩, ⟨_, rfl⟩, ⟨_, rfl⟩, ⟨_, rfl⟩, ⟨_, rfl⟩, by simp⟩

theorem witness_IllegalCommandCompletes :
    (scheduled [.engine] (issued 0x11#32 fresh)).pending = some 0x11#32 ∧
    decodeCmd 0x11#32 = .error .strayOperand ∧
    (scheduled [.engine] (issued 0x11#32 fresh)).moves = .engine :: [] ∧
    (scheduled [.engine] (issued 0x11#32 fresh)).werr = false := by decide

/-- Both ends of both operand ranges, and one past each. -/
theorem witness_AssemblerWordsAndRefusals :
    (0 ≤ 1 ∧ KindOperand.value .kindData ≤ 3) ∧ (1 ≤ 1 ∧ KindOperand.value (.number 3) ≤ 3) ∧
    ¬ (2 ≤ 1 ∧ KindOperand.value .kindData ≤ 3) ∧
    ¬ (1 ≤ 1 ∧ KindOperand.value (.number 4) ≤ 3) := by decide

theorem witness_EngineStepRunsTheDecodedCommand :
    (scheduled [.engine] (issued 0x33#32 fresh)).pending = some 0x33#32 ∧
    decodeCmd 0x33#32 = .ok (.frameEncode 1 1) ∧
    (scheduled [.engine] (issued 0x33#32 fresh)).moves = .engine :: [] ∧
    (issued 0x33#32 fresh).pending = some 0x33#32 ∧ (issued 0x33#32 fresh).moves = [] := by decide

theorem witness_FetchedWordRunsNext :
    decodeTableWord 32 (0x73#32).toNat = some (.frameEncode 1 3) ∧
    got State.len (step (fresh.withFetchWord 32 0x73)) = some 6#16 := by decide

theorem witness_EngineStepNeedsAPendingCommand :
    ((scheduled [.engine] (issued 1#32 fresh)).moves = .engine :: [] ∧
      (scheduled [.engine] (issued 1#32 fresh)).pending ≠ none) ∧
    ((scheduled [.engine] fresh).moves = .engine :: [] ∧
      (scheduled [.engine] fresh).pending = none) ∧
    (fresh.moves = [] ∧ fresh.pending = none) := by decide

/-- A schedule of three host steps and no reset, and the empty one. -/
theorem witness_PendingCommandEventuallyCompletes :
    (scheduled [rd 0x04#17, rd 0x04#17, rd 0x04#17] (issued 1#32 fresh)).pending = some 1#32 ∧
    Move.reset ∉ (scheduled [rd 0x04#17, rd 0x04#17, rd 0x04#17] (issued 1#32 fresh)).moves ∧
    (issued 1#32 fresh).pending = some 1#32 ∧ Move.reset ∉ (issued 1#32 fresh).moves := by decide

/-- Kept, completed, discarded, and issued. -/
theorem witness_PendingCommandIsNeverReplaced :
    got State.pending (step (scheduled [rd 0x04#17] (issued 1#32 fresh))) = some (some 1#32) ∧
    got State.pending (step (scheduled [.engine] (issued 1#32 fresh))) = some none ∧
    got State.pending (step (scheduled [.reset] (issued 1#32 fresh))) = some none ∧
    got State.pending (step (scheduled [wr 0x00#17 1#32] fresh)) = some (some 1#32) := by decide

theorem witness_IssueLatchesTheWord :
    ((scheduled [wr 0x00#17 1#32] fresh).moves = .host ⟨true, 4, 0x00#17, 1#32⟩ :: [] ∧
      (scheduled [wr 0x00#17 1#32] fresh).pending = none) ∧
    ((scheduled [wr 0x00#17 4#32] (issued 1#32 fresh)).moves
        = .host ⟨true, 4, 0x00#17, 4#32⟩ :: [] ∧
      (scheduled [wr 0x00#17 4#32] (issued 1#32 fresh)).pending ≠ none) := by decide

theorem witness_StatusWriteClearsDoneAndWerr :
    (scheduled [wr 0x04#17 0xA#32] fresh).moves = .host ⟨true, 4, 0x04#17, 0xA#32⟩ :: [] ∧
    Inv (scheduled [wr 0x04#17 0xA#32] (issued 1#32 fresh)) ∧
    (scheduled [wr 0x04#17 0xA#32] (issued 1#32 fresh)).moves
      = .host ⟨true, 4, 0x04#17, 0xA#32⟩ :: [] ∧
    (scheduled [wr 0x04#17 0xA#32] (issued 1#32 fresh)).pending ≠ none :=
  ⟨rfl, ⟨by decide, by decide, by decide, by decide, by decide, by decide, by decide⟩, rfl,
    by decide⟩

theorem witness_CtrlAndLenWrites :
    ((scheduled [wr 0x08#17 3#32] fresh).pending = none ∧
      (scheduled [wr 0x08#17 3#32] fresh).moves = .host ⟨true, 4, 0x08#17, 3#32⟩ :: []) ∧
    ((scheduled [wr 0x0C#17 0x12345678#32] fresh).pending = none ∧
      (scheduled [wr 0x0C#17 0x12345678#32] fresh).moves
        = .host ⟨true, 4, 0x0C#17, 0x12345678#32⟩ :: []) := by decide

/-- Every one of the eight register offsets. -/
theorem witness_RegisterReadValues :
    (∀ off, (scheduled [rd off] fresh).moves = .host ⟨false, 4, off, 0#32⟩ :: []) ∧
    [0x00#17, 0x04#17, 0x08#17, 0x0C#17, 0x10#17, 0x14#17, 0x18#17, 0x1C#17].all
      (fun off => off.toNat < 0x20 ∧ off.toNat % 4 = 0) = true :=
  ⟨fun _ => rfl, by decide⟩

/-- The first and the last byte of the buffer, read and written. -/
theorem witness_BufferByteAccess :
    (∀ we : Bool, ∀ i ∈ [0, 18],
      (scheduled [.host ⟨we, 1, .ofNat 17 (0x10000 + i), 0xAB#32⟩] (loaded tiny [] 0)).moves
        = .host ⟨we, 1, .ofNat 17 (0x10000 + i), 0xAB#32⟩ :: [] ∧
      (BitVec.ofNat 17 (0x10000 + i)).toNat = 0x10000 + i ∧
      i < (loaded tiny [] 0).params.maxPayload.val + 6 ∧ (loaded tiny [] 0).pending = none) ∧
    Inv (loaded tiny [] 0) :=
  ⟨by decide, ⟨by decide, by decide, by decide, by decide, by decide, by decide, by decide⟩⟩

/-- Illegal: just past the registers, misaligned, a wrong size, just before and just past the buffer.
Legal: the last register, and the buffer's first and last byte. -/
theorem witness_IllegalAccessesGetTheErrorResponse :
    (∀ t ∈ [⟨false, 4, 0x00020#17, 0#32⟩, ⟨true, 4, 0x0001D#17, 0#32⟩, ⟨true, 1, 0x0001C#17, 0#32⟩,
      ⟨true, 1, 0x0FFFF#17, 0#32⟩, ⟨false, 1, 0x10013#17, 0#32⟩, ⟨false, 4, 0x10000#17, 0#32⟩],
      (scheduled [Move.host t] (loaded tiny [] 0)).moves = .host t :: [] ∧
      ¬ (LegalRegisterAccess t ∨ LegalBufferAccess tiny t)) ∧
    (∀ t ∈ [⟨false, 4, 0x0001C#17, 0#32⟩, ⟨true, 1, 0x10000#17, 0#32⟩, ⟨false, 1, 0x10012#17, 0#32⟩],
      (scheduled [Move.host t] (loaded tiny [] 0)).moves = .host t :: [] ∧
      (LegalRegisterAccess t ∨ LegalBufferAccess tiny t)) := by decide

theorem witness_ReadsAndIdempotentWrites :
    (⟨false, 4, 0x04#17, 0#32⟩ : Txn).we = false ∧
    (Inv (loaded least [] 0) ∧ (⟨true, 4, 0x0C#17, 5#32⟩ : Txn).off ≠ 0x00#17) ∧
    (loaded least [] 0).pending = none :=
  ⟨rfl, ⟨inv_least, by decide⟩, rfl⟩

/-- A droppable write of each kind, a STATUS write, a read-only register at each end, and a read of a
register and of a buffer byte. -/
theorem witness_WritesWhilePendingAreDropped :
    (issued 1#32 (loaded tiny [] 0)).pending = some 1#32 ∧
    (∀ t ∈ [⟨true, 4, 0x00#17, 4#32⟩, ⟨true, 4, 0x08#17, 4#32⟩, ⟨true, 4, 0x0C#17, 4#32⟩,
      ⟨true, 1, 0x10000#17, 4#32⟩, ⟨true, 1, 0x10012#17, 4#32⟩],
      (LegalRegisterAccess t ∨ LegalBufferAccess tiny t) ∧ DroppableWrite tiny t) ∧
    LegalRegisterAccess ⟨true, 4, 0x04#17, 8#32⟩ ∧
    LegalRegisterAccess ⟨true, 4, 0x10#17, 8#32⟩ ∧ LegalRegisterAccess ⟨true, 4, 0x1C#17, 8#32⟩ ∧
    LegalRegisterAccess ⟨false, 4, 0x00#17, 0#32⟩ ∧
    LegalBufferAccess tiny ⟨false, 1, 0x10012#17, 0#32⟩ := by decide

theorem witness_ReadOnlyRegistersIgnoreWrites :
    (∀ off, (scheduled [wr off 5#32] fresh).moves = .host ⟨true, 4, off, 5#32⟩ :: []) ∧
    [0x10#17, 0x14#17, 0x18#17, 0x1C#17].all
      (fun off => off = 0x10#17 ∨ off = 0x14#17 ∨ off = 0x18#17 ∨ off = 0x1C#17) = true :=
  ⟨fun _ => rfl, by decide⟩

theorem witness_NopCompletesWithOk :
    (0x10#32 : Word).extractLsb' 0 4 = 0#4 ∧ (0x10#32 : Word) ≠ 0#32 ∧
    (0x80000000#32 : Word).extractLsb' 0 4 = 0#4 ∧ (0x80000000#32 : Word) ≠ 0#32 := by decide

/-- LEN at the buffer's size and one past it, and the example's state. -/
theorem witness_CsumComputeResult :
    ((loaded tiny [] 20).params.maxPayload.val + 6 < (loaded tiny [] 20).len.toNat) ∧
    ((loaded tiny [] 19).len.toNat ≤ (loaded tiny [] 19).params.maxPayload.val + 6) ∧
    ((loaded tiny hello 13).len = 13#16 ∧ 13 ≤ (loaded tiny hello 13).params.maxPayload.val + 6 ∧
      Memory.readBytes (loaded tiny hello 13).fb 0 13 = hello) := by decide

/-- LEN one past the buffer's size, both verdicts, and the examples' states. -/
theorem witness_CsumVerifyResult :
    ((loaded tiny [] 20).params.maxPayload.val + 6 < (loaded tiny [] 20).len.toNat) ∧
    (∀ b ∈ [0x00#8, 0x01#8], (loaded tiny (hfWith b) 19).len = 19#16 ∧
      19 ≤ (loaded tiny (hfWith b) 19).params.maxPayload.val + 6 ∧
      Memory.readBytes (loaded tiny (hfWith b) 19).fb 0 19 = hfWith b) ∧
    onesSum (Memory.readBytes (loaded tiny (hfWith 0x00#8) 19).fb 0 19) = 0xFFFF#16 ∧
    onesSum (Memory.readBytes (loaded tiny (hfWith 0x01#8) 19).fb 0 19) ≠ 0xFFFF#16 := by decide

/-- LEN at the payload limit and one past it, and the examples' states. -/
theorem witness_FrameEncodeResult :
    ((loaded tiny [] 14).params.maxPayload.val < (loaded tiny [] 14).len.toNat) ∧
    ((loaded tiny (hfWith 0xFF#8) 13).len.toNat
      ≤ (loaded tiny (hfWith 0xFF#8) 13).params.maxPayload.val) ∧
    ((loaded tiny (hfWith 0xFF#8) 13).len = 13#16 ∧
      Memory.readBytes (loaded tiny (hfWith 0xFF#8) 13).fb 6 13 = hello) ∧
    (loaded least [] 0).len = 0#16 := by decide

/-- One state in each branch of R192: RANGE, SHORT at 5, LENGTH, CHECKSUM, FIELD, and accepted at 6. -/
theorem witness_FrameDecodeResult :
    got State.err (exec .frameDecode (loaded tiny [] 20)) = some .range ∧
    got State.err (exec .frameDecode (loaded tiny [] 5)) = some .short ∧
    got State.err (exec .frameDecode
      (loaded tiny [0x00#8, 0x00#8, 0x00#8, 0x02#8, 0xFE#8, 0xFB#8, 0x01#8] 7)) = some .length ∧
    got State.err (exec .frameDecode (loaded tiny [] 6)) = some .checksum ∧
    got State.err (exec .frameDecode (strictly
      (loaded tiny [0x02#8, 0x00#8, 0x00#8, 0x00#8, 0xFD#8, 0xFF#8] 6))) = some .field ∧
    got State.err (exec .frameDecode
      (loaded least [0x01#8, 0x01#8, 0x00#8, 0x00#8, 0xFE#8, 0xFE#8] 6)) = some .none := by decide

/-- An accepted frame of full size, so that the inner hypothesis `t.ok = true` is met. -/
theorem witness_DecodeAcceptsExactlyTheWellFormedFrames :
    got (fun t => (t.ok, t.rxLen)) (exec .frameDecode (strictly (loaded tiny (hfWith 0x00#8) 19)))
      = some (true, 13#16) := by decide

/-- Each of the four commands gives a next state. -/
theorem witness_FrameOfTheNonStoringCommands :
    ∀ i ∈ [Instr.nop, .csumCompute, .csumVerify, .frameDecode],
      (i = .nop ∨ i = .csumCompute ∨ i = .csumVerify ∨ i = .frameDecode) ∧
      got State.done (exec i (loaded tiny (hfWith 0x00#8) 19)) = some true := by decide

/-- A FRAME_ENCODE that stores and one that fails. -/
theorem witness_FrameOfFrameEncode :
    got State.ok (exec (.frameEncode 1 3) (loaded tiny (hfWith 0x00#8) 13)) = some true ∧
    (got State.ok (exec (.frameEncode 1 3) (loaded tiny [] 14)) = some false ∧
      (loaded tiny [] 14).params.maxPayload.val < (loaded tiny [] 14).len.toNat) := by decide

theorem witness_FrameEncodeHeaderBytes :
    Inv (loaded tiny (hfWith 0x00#8) 13) ∧
    (loaded tiny (hfWith 0x00#8) 13).len.toNat
      ≤ (loaded tiny (hfWith 0x00#8) 13).params.maxPayload.val :=
  ⟨inv_hello, by decide⟩

/-- Two buffers that differ only where FRAME_ENCODE of a 2-byte payload does not read. -/
theorem witness_EngineTouchesOnlyItsCheckedRange :
    (∀ a, Memory.read (Memory.write [] 8 0x55#8) a ≠ Memory.read (loaded tiny [] 2).fb a →
      a < 6 ∨ 6 + (loaded tiny [] 2).len.toNat ≤ a ∨
        (loaded tiny [] 2).params.maxPayload.val < (loaded tiny [] 2).len.toNat) ∧
    Memory.wf (loaded tiny [] 2).fb = true ∧ Memory.wf (Memory.write [] 8 0x55#8) = true ∧
    got State.ok (exec (.frameEncode 0 0) (loaded tiny [] 2)) = some true := by
  refine ⟨fun a ha => ?_, rfl, rfl, by decide⟩
  by_cases h : a = 8
  · exact .inr (.inl (by rw [h]; decide))
  · exact absurd (Memory.read_write_other 0x55#8 h) ha

/-- RANGE at one past each limit, and not at the limit. -/
theorem witness_RangeChecks :
    (∀ i ∈ [Instr.csumCompute, .csumVerify, .frameDecode],
      got State.err (exec i (loaded tiny [] 20)) = some .range ∧
      got State.err (exec i (loaded tiny [] 19)) ≠ some .range) ∧
    got State.err (exec (.frameEncode 0 0) (loaded tiny [] 14)) = some .range ∧
    got State.err (exec (.frameEncode 0 0) (loaded tiny [] 13)) ≠ some .range := by decide

/-- A failing command of each of the two forms. -/
theorem witness_ErrorsArePrecise :
    got State.ok (exec .frameDecode (loaded tiny [] 5)) = some false ∧
    got State.ok (exec .csumVerify (loaded tiny [] 5)) = some false := by decide

/-- Up at a completion (the engine's turn, and the end of the schedule) and at a CTRL write; down at a
STATUS write, an issue, a CTRL write, a reset. -/
theorem witness_InterruptRisesAndFalls :
    got irq (step (scheduled [.engine] (issued 0#32 { fresh with ie := true }))) = some true ∧
    (irq (issued 0#32 { fresh with ie := true }) = false ∧
      got irq (step (issued 0#32 { fresh with ie := true })) = some true) ∧
    (irq { fresh with done := true } = false ∧
      got irq (step (scheduled [wr 0x08#17 1#32] { fresh with done := true })) = some true) ∧
    irq { fresh with ie := true, done := true } = true ∧
    ∀ m ∈ [wr 0x04#17 2#32, wr 0x00#17 0#32, wr 0x08#17 0#32, .reset],
      got irq (step (scheduled [m] { fresh with ie := true, done := true })) = some false := by
  decide

theorem witness_WerrIsSticky :
    got State.werr (step (scheduled [wr 0x0C#17 5#32] (issued 0#32 fresh))) = some true ∧
    got State.werr (step (scheduled [wr 0x04#17 8#32] { fresh with werr := true })) = some false ∧
    got State.werr (step (scheduled [.reset] { fresh with werr := true })) = some false := by decide

/-- A step that changes each of the registers the statement names. -/
theorem witness_OnlyTheirOwnStepsChangeTheRegisters :
    got State.csum (step (issued 1#32 fresh)) = some 0xFFFF#16 ∧
    got State.rxSeq (step (issued 4#32
      (loaded tiny [0x01#8, 0x01#8, 0x00#8, 0x00#8, 0xFE#8, 0xFE#8] 6))) = some 0x01#8 ∧
    got State.ok (step (issued 0#32 fresh)) = some true ∧
    got State.len (step (scheduled [wr 0x0C#17 5#32] fresh)) = some 5#16 ∧
    got State.len (step (issued 3#32 fresh)) = some 6#16 ∧
    got State.fb (step (scheduled [.host ⟨true, 1, 0x10001#17, 7#32⟩] fresh)) = some [(1, 7#8)] ∧
    got (fun t => Memory.read t.fb 4) (step (issued 3#32 fresh)) = some 0xFF#8 ∧
    got State.strict (step (scheduled [wr 0x08#17 2#32] fresh)) = some true := by decide

theorem witness_ParametersNeverChange :
    got State.params (step (issued 1#32 (loaded tiny [] 0))) = some tiny := by decide

theorem witness_ResetStepClearsAllButTheBuffer :
    (scheduled [.reset, .reset] (issued 1#32 fresh)).moves = .reset :: [.reset] ∧
    (scheduled [.reset, .engine] (issued 1#32 fresh)).moves = .reset :: [.engine] := by decide

/-- A full buffer of the smallest CFE. -/
theorem witness_InvHoldsAtPowerOn :
    Memory.wf [(0, 1#8), (5, 0xFF#8)] = true ∧
    Memory.below (least.maxPayload.val + 6) [(0, 1#8), (5, 0xFF#8)] = true := by decide

theorem witness_EveryStepKeepsInv :
    Inv (issued 0x00000003#32 (loaded tiny (hfWith 0x00#8) 13)) ∧
    got State.ok (step (issued 0x00000003#32 (loaded tiny (hfWith 0x00#8) 13))) = some true :=
  ⟨inv_issued, by decide⟩

/-- A STATUS write, a dropped write and a read between issue and completion, and none at all; a legal and
an illegal word. -/
theorem witness_HostCannotChangeAPendingCommand :
    (issued 1#32 fresh).pending = some 1#32 ∧ decodeCmd 1#32 = .ok .csumCompute ∧
    (issued 0x11#32 fresh).pending = some 0x11#32 ∧
    decodeCmd 0x11#32 = .error .strayOperand ∧
    (scheduled [wr 0x04#17 8#32, wr 0x0C#17 5#32, rd 0x04#17, .engine] (issued 1#32 fresh)).moves
      = ([⟨true, 4, 0x04#17, 8#32⟩, ⟨true, 4, 0x0C#17, 5#32⟩,
          ⟨false, 4, 0x04#17, 0#32⟩] : List Txn).map Move.host ++ .engine :: [] ∧
    (scheduled [.engine] (issued 1#32 fresh)).moves = [].map Move.host ++ .engine :: [] := by decide

/-- Two states that agree on the operands and differ elsewhere. -/
theorem witness_ResultsDependOnlyOnTheOperands :
    fresh ≠ { fresh with sum := 1#16, rxSeq := 2#8, ok := true } ∧
    fresh.len = ({ fresh with sum := 1#16, rxSeq := 2#8, ok := true } : State).len ∧
    fresh.fb = ({ fresh with sum := 1#16, rxSeq := 2#8, ok := true } : State).fb ∧
    fresh.strict = ({ fresh with sum := 1#16, rxSeq := 2#8, ok := true } : State).strict ∧
    fresh.params = ({ fresh with sum := 1#16, rxSeq := 2#8, ok := true } : State).params := by
  decide

/-- An odd and an even byte count, and the empty one. -/
theorem witness_OnesSumFoldsTheBigEndianWords :
    ([0xAB#8, 0x00#8] : List Byte)
      = (if ([0xAB#8] : List Byte).length % 2 = 1 then [0xAB#8] ++ [0x00#8] else [0xAB#8]) ∧
    0 < (([0xAB#8] : List Byte).length + 1) / 2 ∧ (([] : List Byte).length + 1) / 2 = 0 := by decide

/-- The two sides of each split, and a total that folds to 0xFFFF. -/
theorem witness_FoldIsExact :
    fold 0 = 0 ∧ fold 1 = 1 ∧ fold 0xFFFF = 0xFFFF ∧ fold 0x10000 = 1 ∧ fold 0x1FFFF = 1 := by
  decide

theorem witness_GroupingDoesNotMatter :
    List.Perm [0x1234#16, 0x5600#16] [0x5600#16, 0x1234#16] := by decide

theorem witness_OnesAddLaws :
    ([0x12#8, 0x34#8] : List Byte).length % 2 = 0 ∧ ([0x12#8] : List Byte).length % 2 = 1 := by
  decide

/-- The checksum field after two bytes, with an odd and with an even total length (V-CS-08's word sum
for the odd one). -/
theorem witness_ChecksumRoundTrip :
    ([0x12#8, 0x34#8] : List Byte).length % 2 = 0 ∧
    0x97CB#16 = checksum ([0x12#8, 0x34#8] ++ [0x00#8, 0x00#8] ++ [0x56#8]) ∧
    0x973B#16 = checksum ([0x12#8, 0x34#8] ++ [0x00#8, 0x00#8] ++ [0x56#8, 0x90#8]) := by decide

/-- The first bit of the first byte and the last bit of the last byte of HF (S-08, V-FR-35). -/
theorem witness_SingleBitErrorsAreDetected :
    verifies (hfWith 0x00#8) = true ∧
    (hfWith 0x00#8)[0]? = some 0x00#8 ∧ 0 < 8 ∧ (hfWith 0x00#8)[18]? = some 0x21#8 ∧ 7 < 8 := by
  decide

/-- Equal residues with positive sums (V-CS-19), aligned words swapped, and a pair that cancels. -/
theorem witness_UndetectedErrors :
    (rawSum [0xFF#8, 0xFF#8] % 0xFFFF = rawSum [0xFF#8, 0xFF#8, 0xFF#8, 0xFF#8] % 0xFFFF ∧
      0 < rawSum [0xFF#8, 0xFF#8] ∧ 0 < rawSum [0xFF#8, 0xFF#8, 0xFF#8, 0xFF#8]) ∧
    ([] : List Byte).length % 2 = 0 ∧ 0 < rawSum (([] : List Byte) ++ [0xFF#8, 0xFF#8]) ∧
    (halfOf 0x12#8 0x34#8).toNat + (halfOf 0x00#8 0x02#8).toNat
      = (halfOf 0x12#8 0x35#8).toNat + (halfOf 0x00#8 0x01#8).toNat := by decide

/-- Both ends: a correct checksum of 0x0000 (V-FR-29) and one of 0xFFFF (V-FR-04). -/
theorem witness_NegativeZeroAlias :
    (([0x00#8, 0x01#8, 0x00#8, 0x02#8] : List Byte).length = 4 ∧
      checksum ([0x00#8, 0x01#8, 0x00#8, 0x02#8] ++ [0x00#8, 0x00#8] ++ [0xFF#8, 0xFC#8])
        = 0x0000#16) ∧
    (([0x00#8, 0x00#8, 0x00#8, 0x00#8] : List Byte).length = 4 ∧
      checksum ([0x00#8, 0x00#8, 0x00#8, 0x00#8] ++ [0x00#8, 0x00#8] ++ []) = 0xFFFF#16) := by
  decide

/-- V-FR-01: the frame of Hello. -/
theorem witness_FrameConstruction :
    hello.length ≤ 0xFFFF ∧
    0xBEC6#16 = checksum ([0x00#8, 0x00#8, BitVec.ofNat 8 (hello.length / 256),
      BitVec.ofNat 8 hello.length] ++ [0x00#8, 0x00#8] ++ hello) := by decide

theorem witness_EncodeThenDecode :
    Inv (scheduled [.engine, wr 0x00#17 4#32, .engine]
      (issued 0x00000003#32 (loaded tiny (hfWith 0x00#8) 13))) ∧
    (issued 0x00000003#32 (loaded tiny (hfWith 0x00#8) 13)).pending
      = some (encode (.frameEncode 0 0)) ∧
    (scheduled [.engine, wr 0x00#17 4#32, .engine] fresh).moves
      = .engine :: .host ⟨true, 4, 0x00#17, 4#32⟩ :: .engine :: [] ∧
    (loaded tiny (hfWith 0x00#8) 13).len.toNat
      ≤ (loaded tiny (hfWith 0x00#8) 13).params.maxPayload.val :=
  ⟨⟨by decide, by decide, by decide, by decide, by decide, by decide, by decide⟩, by decide, rfl,
    by decide⟩

/-- LEN 7 and LEN 8 with a payload limit of 13: the second encode fits, and does not. -/
theorem witness_LenReuseHazard :
    (6 + (loaded tiny [] 7).len.toNat ≤ (loaded tiny [] 7).params.maxPayload.val) ∧
    ((loaded tiny [] 8).params.maxPayload.val < 6 + (loaded tiny [] 8).len.toNat ∧
      (loaded tiny [] 8).len.toNat ≤ (loaded tiny [] 8).params.maxPayload.val) ∧
    Inv (loaded tiny (hfWith 0x00#8) 13) ∧ got State.len (exec .nop (loaded tiny [] 8)) = some 8#16 :=
  ⟨by decide, by decide, inv_hello, by decide⟩

/-- HF fills the buffer of a CFE with a 13-byte payload limit, and verifies (V-CS-20). -/
theorem witness_ComputeOverAVerifyingFrameGivesZero :
    (loaded tiny (hfWith 0x00#8) 19).len.toNat
      ≤ (loaded tiny (hfWith 0x00#8) 19).params.maxPayload.val + 6 ∧
    verifies (Memory.readBytes (loaded tiny (hfWith 0x00#8) 19).fb 0 19) = true := by decide

/-- A run with two reads that ends with nothing pending, one of host transactions alone that leaves a
command to complete, and the empty one. -/
theorem witness_ObservationIsTheReadsAndTheFinalState :
    (observation (scheduled [wr 0x00#17 1#32, rd 0x04#17, .engine, rd 0x10#17] fresh)).map
      (fun o => (o.reads.length, o.final.pending)) = some (2, none) ∧
    (scheduled [rd 0x04#17, wr 0x00#17 1#32] fresh).moves
      = ([⟨false, 4, 0x04#17, 0#32⟩, ⟨true, 4, 0x00#17, 1#32⟩] : List Txn).map Move.host ∧
    fresh.moves = ([] : List Txn).map Move.host ∧
    (observation fresh).map Observation.reads = some [] := by decide

end Sys2Proof.Tests
end

/-! The state's own statements (spec/10_state.md): the STATUS write (R36) and power-on (R48). -/

namespace Sys2Proof.Machine

open Sys2Proof Sys2Proof.Safety

/-! ### Register writes as steps -/

/-- A guarded write keeps the response log if the write itself does. -/
theorem unlessPending_responses {f : State → State} {s : State}
    (hf : (f s).responses = s.responses) : (unlessPending f s).responses = s.responses := by
  rcases unlessPending_cases f s with ⟨-, h⟩ | ⟨-, h⟩
  · rw [h, hf]
  · rw [h, dropWrite_responses]

/-- No register write touches the response log; only the host step around it does (log 2). -/
theorem writeReg_responses (r : Reg) (w : Word) (s : State) :
    (writeReg r w s).responses = s.responses := by
  cases r with
  | cmd => exact unlessPending_responses rfl
  | status => exact clearStatus_responses s w
  | ctrl => exact unlessPending_responses (writeCtrl_responses s w)
  | len => exact unlessPending_responses (writeLen_responses s w)
  | result | rxHdr | rxCsum | cfg => rfl

/-- A scheduled legal register write is one step: the write, and its response logged. -/
theorem step_writeReg {s : State} {off : Offset} {w : Word} {rest : List Move}
    (hm : s.moves = .host ⟨true, 4, off, w⟩ :: rest) (h : off.toNat < 0x20)
    (ha : off.toNat % 4 = 0) :
    step s = .next { writeReg (regAt (off.toNat / 4)) w { s with moves := rest } with
      responses := s.responses ++ [normalResponse 0#32] } := by
  rw [step_host hm, hostStep, busTransaction_writeReg w _ h ha]
  simp only [writeReg_responses]

/-! ### The STATUS write -/

/-- W1C as masking: the two `if`s of `clearStatus` are conjunctions with the negated bits (R36). -/
theorem clearStatus_eq (w : Word) (s : State) :
    clearStatus w s
      = { s with done := s.done && !w.getLsbD 1, werr := s.werr && !w.getLsbD 3 } := by
  have mask (b c : Bool) : (if c then false else b) = (b && !c) := by cases c <;> simp
  simp only [clearStatus, mask]

/-- A scheduled STATUS write, whatever is pending (R36). -/
theorem step_writeStatus {s : State} {w : Word} {rest : List Move}
    (hm : s.moves = .host ⟨true, 4, 0x04#17, w⟩ :: rest) :
    step s = .next
      { s with done := s.done && !w.getLsbD 1, werr := s.werr && !w.getLsbD 3, moves := rest,
               responses := s.responses ++ [normalResponse 0#32] } := by
  have hreg : regAt ((0x04#17).toNat / 4) = .status := rfl
  rw [step_writeReg hm (by decide) (by decide), hreg, writeReg, clearStatus_eq]

/-- DONE is clear while a command is pending, so there is nothing for bit 1 to clear (R36). -/
theorem done_eq_false_of_pending {s : State} (hi : Inv s) (hp : s.pending ≠ none) :
    s.done = false :=
  hi.doneClearWhilePending (Option.isSome_iff_ne_none.mpr hp)

/-- Settles O12: the step is `clearStatus` with its response; the invariant's `doneClearWhilePending`
gives the clause about a pending command. -/
theorem statusWriteClearsDoneAndWerr : Obligations.StatusWriteClearsDoneAndWerr := by
  intro s w rest hm
  refine ⟨normalResponse 0#32, rfl, step_writeStatus hm, fun hi hp => ?_⟩
  have hd : s.done = false := done_eq_false_of_pending hi hp
  have hkeep : (s.done && !w.getLsbD 1) = s.done := by simp [hd]
  rw [step_writeStatus hm, hkeep]

/-! ### Power-on -/

/-- After power-on every register but CFG reads 0 (R48). -/
theorem readReg_powerOn {r : Reg} (p : Params) (fb0 : Memory) (hr : r ≠ .cfg) :
    readReg r (State.powerOn p fb0) = 0#32 := by
  cases r with
  | cfg => exact absurd rfl hr
  | status => simp [readReg, statusWord, busy, errCode, State.powerOn]
  | cmd | ctrl | len | result | rxHdr | rxCsum => simp [readReg, State.powerOn]

/-- Settles O39: the registers by `readReg_powerOn`; the other parts are fields of `State.powerOn`. -/
theorem powerOnState : Obligations.PowerOnState := by
  intro p fb0
  exact ⟨rfl, rfl, fun _ hr => readReg_powerOn p fb0 hr, fun _ => rfl, rfl⟩

end Sys2Proof.Machine

/-! The bus's statements (spec/20_memory.md): which accesses are legal (R74 to R76), and what each legal
transaction does while a command is pending (R78). -/

namespace Sys2Proof.Machine

open Sys2Proof Sys2Proof.Safety

/-! ### Illegal and legal transactions -/

/-- The converse of R74: what is not legal is rejected in every region, the state
unchanged (R76). -/
theorem busTransaction_of_illegal {t : Txn} {s : State}
    (h : ¬ (LegalRegisterAccess t ∨ LegalBufferAccess s.params t)) :
    busTransaction t s = (s, busError) := by
  cases hr : regionOf s.params t.off with
  | register r =>
    obtain ⟨hlt, -⟩ := regionOf_register hr
    have hacc : ¬ registerAccessOk t = true := fun ha =>
      h (.inl ⟨hlt, by simpa [registerAccessOk] using ha⟩)
    simp [busTransaction, hr, hacc]
  | buffer i =>
    obtain ⟨hoff, hi⟩ := regionOf_buffer hr
    rw [Config.bufBytes, Config.headerBytes] at hi
    have hacc : ¬ bufferAccessOk t = true := fun ha =>
      h (.inr ⟨by omega, by omega, by simpa [bufferAccessOk] using ha⟩)
    simp [busTransaction, hr, hacc]
  | reserved => simp [busTransaction, hr]

/-- A legal register access in either direction (R74). -/
theorem busTransaction_of_legalRegister {t : Txn} (s : State) (h : LegalRegisterAccess t) :
    busTransaction t s
      = (if t.we then writeReg (regAt (t.off.toNat / 4)) t.wdata s else s,
         normalResponse (if t.we then 0#32 else readReg (regAt (t.off.toNat / 4)) s)) := by
  obtain ⟨we, size, off, w⟩ := t
  obtain ⟨hlt, rfl, halign⟩ := h
  cases we with
  | true => exact busTransaction_writeReg w s hlt halign
  | false => exact busTransaction_readReg w s hlt halign

/-- A legal buffer access in either direction (R74). -/
theorem busTransaction_of_legalBuffer {t : Txn} {s : State} (h : LegalBufferAccess s.params t) :
    busTransaction t s
      = (if t.we then unlessPending (writeByte (t.off.toNat - 0x10000) t.wdata) s else s,
         normalResponse (if t.we then 0#32
           else (Memory.read s.fb (t.off.toNat - 0x10000)).zeroExtend 32)) := by
  obtain ⟨we, size, off, w⟩ := t
  obtain ⟨hlo, hhi, rfl⟩ := h
  dsimp only at hlo hhi
  have hoff : off.toNat = 0x10000 + (off.toNat - 0x10000) := by omega
  have hi : off.toNat - 0x10000 < Config.bufBytes s.params := by
    rw [Config.bufBytes, Config.headerBytes]
    omega
  cases we with
  | true => exact busTransaction_writeByte w s hoff hi
  | false => exact busTransaction_readByte w s hoff hi

/-- The response of a legal transaction is a normal one (R74). -/
theorem busTransaction_err_of_legal {t : Txn} {s : State}
    (h : LegalRegisterAccess t ∨ LegalBufferAccess s.params t) :
    (busTransaction t s).2.err = false := by
  rcases h with h | h
  · rw [busTransaction_of_legalRegister s h, normalResponse]
  · rw [busTransaction_of_legalBuffer h, normalResponse]

/-- The transaction itself leaves the response log alone; the host step logs its response (log 2). -/
theorem busTransaction_responses (t : Txn) (s : State) :
    (busTransaction t s).1.responses = s.responses := by
  by_cases h : LegalRegisterAccess t ∨ LegalBufferAccess s.params t
  · rcases h with hreg | hbuf
    · rw [busTransaction_of_legalRegister s hreg]
      cases t.we with
      | true => exact writeReg_responses _ t.wdata s
      | false => rfl
    · rw [busTransaction_of_legalBuffer hbuf]
      cases t.we with
      | true => exact unlessPending_responses (writeByte_responses s _ t.wdata)
      | false => rfl
  · rw [busTransaction_of_illegal h]

/-- A scheduled transaction whose result is known, as a step. -/
theorem step_of_busTransaction {s u : State} {t : Txn} {r : BusResponse} {rest : List Move}
    (hm : s.moves = .host t :: rest) (hb : busTransaction t { s with moves := rest } = (u, r)) :
    step s = .next { u with responses := u.responses ++ [r] } := by
  rw [step_host hm, hostStep, hb]

/-- Settles O16: an illegal access by `busTransaction_of_illegal`; a legal one by the error bit of its
response, which the host step appends. -/
theorem illegalAccessesGetTheErrorResponse : Obligations.IllegalAccessesGetTheErrorResponse := by
  intro s t rest hm
  refine ⟨fun h => ?illegal, fun h => ?legal⟩
  case illegal =>
    exact step_of_busTransaction hm (busTransaction_of_illegal (s := { s with moves := rest }) h)
  case legal =>
    refine ⟨_, _, step_host hm, ?_, busTransaction_err_of_legal (s := { s with moves := rest }) h⟩
    rw [hostStep_responses, busTransaction_responses]

/-! ### Transactions while a command is pending -/

/-- A write to CMD, CTRL or LEN is dropped while a command is pending (R78). -/
theorem writeReg_of_pending {r : Reg} {s : State} {w : Word} (v : Word) (hp : s.pending = some w)
    (hr : r = .cmd ∨ r = .ctrl ∨ r = .len) : writeReg r v s = dropWrite s := by
  rcases hr with rfl | rfl | rfl <;> simp only [writeReg, issue, unlessPending_busy _ hp]

/-- Every droppable write is dropped while a command is pending (R78). -/
theorem busTransaction_of_droppable {s : State} {t : Txn} {w : Word} (hp : s.pending = some w)
    (h : DroppableWrite s.params t) : busTransaction t s = (dropWrite s, normalResponse 0#32) := by
  obtain ⟨hwe, ⟨hreg, hoff⟩ | hbuf⟩ := h
  · have hr : regAt (t.off.toNat / 4) = .cmd ∨ regAt (t.off.toNat / 4) = .ctrl ∨
        regAt (t.off.toNat / 4) = .len := by
      rcases hoff with hoff | hoff | hoff <;> simp [hoff, regAt]
    rw [busTransaction_of_legalRegister s hreg, hwe, if_pos rfl, if_pos rfl,
      writeReg_of_pending _ hp hr]
  · rw [busTransaction_of_legalBuffer hbuf, hwe, if_pos rfl, if_pos rfl, unlessPending_busy _ hp]

/-- The registers from 0x10 on are read-only (R45). -/
theorem writeReg_readOnly {off : Offset} (w : Word) (s : State) (hlo : 0x10 ≤ off.toNat)
    (hhi : off.toNat < 0x20) : writeReg (regAt (off.toNat / 4)) w s = s := by
  have hn : off.toNat / 4 = 4 ∨ off.toNat / 4 = 5 ∨ off.toNat / 4 = 6 ∨ off.toNat / 4 = 7 := by
    omega
  rcases hn with hn | hn | hn | hn <;> rw [hn] <;> rfl

/-- A legal access below the end of the registers is a register access. -/
theorem legalRegister_of_lt {p : Params} {t : Txn}
    (h : LegalRegisterAccess t ∨ LegalBufferAccess p t) (hlt : t.off.toNat < 0x20) :
    LegalRegisterAccess t :=
  h.resolve_right fun ⟨hlo, _⟩ => by omega

/-- A legal write to a read-only register is a step that only logs its response (R45). -/
theorem step_writeReadOnly {s : State} {t : Txn} {rest : List Move} (hm : s.moves = .host t :: rest)
    (hreg : LegalRegisterAccess t) (hwe : t.we = true) (hlo : 0x10 ≤ t.off.toNat) :
    step s = .next
      { s with moves := rest, responses := s.responses ++ [normalResponse 0#32] } := by
  have hb := busTransaction_of_legalRegister { s with moves := rest } hreg
  rw [hwe, if_pos rfl, if_pos rfl, writeReg_readOnly _ _ hlo hreg.1] at hb
  exact step_of_busTransaction hm hb

/-- What a register reads as does not depend on the schedule (log 1). -/
theorem readReg_moves (r : Reg) (s : State) (rest : List Move) :
    readReg r { s with moves := rest } = readReg r s := by
  cases r <;> rfl

/-- A legal read is a step that only logs the current register or byte (R77). -/
theorem step_legalRead {s : State} {t : Txn} {rest : List Move} (hm : s.moves = .host t :: rest)
    (hl : LegalRegisterAccess t ∨ LegalBufferAccess s.params t) (hwe : t.we = false) :
    ∃ v : Word,
      step s = .next { s with moves := rest, responses := s.responses ++ [normalResponse v] } ∧
      (t.off.toNat < 0x20 → v = readReg (regAt (t.off.toNat / 4)) s) ∧
      (0x10000 ≤ t.off.toNat →
        v.toNat = (Memory.read s.fb (t.off.toNat - 0x10000)).toNat) := by
  rcases hl with hreg | hbuf
  · have hb := busTransaction_of_legalRegister { s with moves := rest } hreg
    rw [hwe, readReg_moves] at hb
    exact ⟨_, step_of_busTransaction hm hb, fun _ => rfl, fun hle => by omega⟩
  · have hb := busTransaction_of_legalBuffer (s := { s with moves := rest }) hbuf
    rw [hwe] at hb
    exact ⟨_, step_of_busTransaction hm hb, fun hlt => by omega,
      fun _ => BitVec.toNat_setWidth_of_le (by decide)⟩

/-- Settles O18, by the direction: a write answers 0, and each kind of register or byte has its step
lemma; a read's clause is `step_legalRead`.  The clauses about the other direction are empty. -/
theorem writesWhilePendingAreDropped : Obligations.WritesWhilePendingAreDropped := by
  intro s w t rest hp hm hl
  cases hwe : t.we with
  | true =>
    refine ⟨normalResponse 0#32, rfl, fun hd => ?dropped, fun _ hoff => ?status,
      fun _ hlo hhi => ?readOnly, fun h => absurd h (by decide)⟩
    case dropped =>
      exact step_of_busTransaction hm
        (busTransaction_of_droppable (s := { s with moves := rest }) hp hd)
    case status =>
      obtain ⟨-, hsize, -⟩ := legalRegister_of_lt hl (by rw [hoff]; decide)
      obtain ⟨we, size, off, v⟩ := t
      subst hwe hsize hoff
      exact step_writeStatus hm
    case readOnly => exact step_writeReadOnly hm (legalRegister_of_lt hl hhi) hwe hlo
  | false =>
    obtain ⟨v, hstep, hreg, hbuf⟩ := step_legalRead hm hl hwe
    exact ⟨normalResponse v, rfl, fun ⟨h, _⟩ => absurd (hwe.symm.trans h) (by decide),
      fun h => absurd h (by decide), fun h => absurd h (by decide), fun _ => ⟨hstep, hreg, hbuf⟩⟩

end Sys2Proof.Machine

/-! The encoding's statements (spec/30_encoding.md): decode and encode agree (R104), the illegal
words (R103), the assembler (R113). -/

namespace Sys2Proof

/-! ### The fields of a command word -/

/-- OP of a command (R101). -/
def Instr.opcode : Instr → BitVec 4
  | .nop => 0
  | .csumCompute => 1
  | .csumVerify => 2
  | .frameEncode _ _ => 3
  | .frameDecode => 4

/-- KIND and SEQ of a command, 0 for a command that takes neither (R104). -/
def Instr.operandBits : Instr → BitVec 3
  | .frameEncode seq kind => kind ++ seq
  | .nop | .csumCompute | .csumVerify | .frameDecode => 0

/-- The word's three fields are those of the command's word (R100, R104). -/
def HasFieldsOf (w : Word) (i : Instr) : Prop :=
  reservedField w = 0 ∧ operandField w = i.operandBits ∧ opField w = i.opcode

/-- One of R103's three conditions holds. -/
def IllegalFields (w : Word) : Prop :=
  5 ≤ (opField w).toNat ∨ reservedField w ≠ 0 ∨ (opField w ≠ 3 ∧ operandField w ≠ 0)

/-- A word is determined by its three fields (R100). -/
theorem eq_of_fields_eq {w v : Word} (hr : reservedField w = reservedField v)
    (hx : operandField w = operandField v) (ho : opField w = opField v) : w = v := by
  have low (x : Word) : operandField x ++ opField x = x.extractLsb' 0 7 :=
    BitVec.extractLsb'_append_extractLsb'_eq_extractLsb' rfl
  have split (x : Word) : reservedField x ++ (operandField x ++ opField x) = x := by
    rw [low]
    exact BitVec.extractLsb'_append_extractLsb' (w := 25)
  rw [← split w, hr, hx, ho, split v]

theorem hasFieldsOf_encode (i : Instr) : HasFieldsOf (encode i) i := by
  cases i with
  | nop | csumCompute | csumVerify | frameDecode => exact ⟨rfl, rfl, rfl⟩
  | frameEncode seq kind =>
    refine ⟨Laws.ReservedBitsClear.frameEncode seq kind, ?_⟩
    revert seq kind
    decide

theorem HasFieldsOf.eq_encode {w : Word} {i : Instr} (h : HasFieldsOf w i) : w = encode i := by
  obtain ⟨hr, hx, ho⟩ := h
  obtain ⟨hr', hx', ho'⟩ := hasFieldsOf_encode i
  exact eq_of_fields_eq (hr.trans hr'.symm) (hx.trans hx'.symm) (ho.trans ho'.symm)

/-- No command's word meets a condition of R103. -/
theorem HasFieldsOf.not_illegal {w : Word} {i : Instr} (h : HasFieldsOf w i) :
    ¬ IllegalFields w := by
  obtain ⟨hr, hx, ho⟩ := h
  rw [IllegalFields, hr, hx, ho]
  cases i <;> simp [Instr.opcode, Instr.operandBits]

/-! ### The decoder -/

/-- What a decoder's answer says about the word: the command's fields, or a condition of R103. -/
def AnswerFits (w : Word) : Except IllegalWord Instr → Prop
  | .ok i => HasFieldsOf w i
  | .error _ => IllegalFields w

theorem withoutOperands_fits {w : Word} {i : Instr} (hr : reservedField w = 0)
    (ho : (opField w).toNat = i.opcode.toNat) (hi : i.opcode ≠ 3) (hx : i.operandBits = 0) :
    AnswerFits w (withoutOperands w i) := by
  have ho : opField w = i.opcode := BitVec.eq_of_toNat_eq ho
  unfold withoutOperands
  split
  · next hw => exact ⟨hr, hw.trans hx.symm, ho⟩
  · next hw => exact .inr (.inr ⟨ho ▸ hi, hw⟩)

/-- The decoder's answer fits its word, branch by branch of R104. -/
theorem decodeCmd_fits (w : Word) : AnswerFits w (decodeCmd w) := by
  unfold decodeCmd
  split
  · next hr => exact .inr (.inl hr)
  · next hr =>
    have hr : reservedField w = 0 := not_not.mp hr
    split
    · next ho => exact withoutOperands_fits hr ho (by decide) rfl
    · next ho => exact withoutOperands_fits hr ho (by decide) rfl
    · next ho => exact withoutOperands_fits hr ho (by decide) rfl
    · next ho =>
      have hx : kindField w ++ seqField w = operandField w :=
        BitVec.extractLsb'_append_extractLsb'_eq_extractLsb' rfl
      exact ⟨hr, hx.symm, BitVec.eq_of_toNat_eq ho⟩
    · next ho => exact withoutOperands_fits hr ho (by decide) rfl
    · next h0 h1 h2 h3 h4 =>
      simp only [imp_false] at h0 h1 h2 h3 h4
      have ho : 5 ≤ (opField w).toNat := by omega
      exact .inl ho

/-- The illegal words are those of R103. -/
theorem decodeCmd_error_iff (w : Word) : (∃ r, decodeCmd w = .error r) ↔ IllegalFields w := by
  have hfit := decodeCmd_fits w
  cases hd : decodeCmd w with
  | ok i =>
    rw [hd] at hfit
    exact iff_of_false (by simp) hfit.not_illegal
  | error r =>
    rw [hd] at hfit
    exact iff_of_true ⟨r, rfl⟩ hfit

theorem decodeCmd_encode (i : Instr) : decodeCmd (encode i) = .ok i := by
  cases i with
  | nop | csumCompute | csumVerify | frameDecode => rfl
  | frameEncode seq kind =>
    revert seq kind
    decide

/-- A word that decodes to a command has that command's fields, so it is that command's word. -/
theorem decodeCmd_eq_ok_iff (w : Word) (i : Instr) : decodeCmd w = .ok i ↔ w = encode i := by
  refine ⟨fun hd => ?_, fun hw => hw ▸ decodeCmd_encode i⟩
  have hfit := decodeCmd_fits w
  rw [hd] at hfit
  exact hfit.eq_encode

/-- FRAME_ENCODE's word in numbers (R104). -/
theorem toNat_encode_frameEncode (seq : BitVec 1) (kind : BitVec 2) :
    (encode (.frameEncode seq kind)).toNat = 3 + 16 * seq.toNat + 32 * kind.toNat := by
  revert seq kind
  decide

/-- Settles O1: `decodeCmd_eq_ok_iff` for the agreement, `toNat_encode_frameEncode` for the one word
with operands. -/
theorem decodeAndEncodeAgree : Obligations.DecodeAndEncodeAgree :=
  ⟨decodeCmd_eq_ok_iff, rfl, rfl, rfl, rfl, toNat_encode_frameEncode⟩

/-! ### The assembler -/

/-- The assembler accepts `frame.encode` exactly when both operands are in range (R113). -/
theorem wellFormed_frameEncode_iff (seq : Nat) (kind : KindOperand) :
    (AsmCommand.frameEncode seq kind).wellFormed = true ↔ seq ≤ 1 ∧ kind.value ≤ 3 := by
  simp [AsmCommand.wellFormed, seqOperandOk, kindOperandOk]

/-- In range, no operand bit is cut off: the word is the sum of its fields (R113). -/
theorem assemble_frameEncode {seq : Nat} {kind : KindOperand} (h : seq ≤ 1 ∧ kind.value ≤ 3) :
    assemble (.frameEncode seq kind) = some (BitVec.ofNat 32 (3 + 16 * seq + 32 * kind.value)) := by
  have hword : encode (.frameEncode (.ofNat 1 seq) (.ofNat 2 kind.value))
      = BitVec.ofNat 32 (3 + 16 * seq + 32 * kind.value) := by
    apply BitVec.eq_of_toNat_eq
    rw [toNat_encode_frameEncode]
    simp only [BitVec.toNat_ofNat]
    omega
  rw [assemble, if_pos ((wellFormed_frameEncode_iff seq kind).mpr h), hword]

theorem assemble_frameEncode_refused {seq : Nat} {kind : KindOperand}
    (h : ¬ (seq ≤ 1 ∧ kind.value ≤ 3)) : assemble (.frameEncode seq kind) = none :=
  if_neg (mt (wellFormed_frameEncode_iff seq kind).mp h)

/-- Settles O5: the fixed words and codes by evaluation, `frame.encode` by its two lemmas. -/
theorem assemblerWordsAndRefusals : Obligations.AssemblerWordsAndRefusals :=
  ⟨rfl, rfl, rfl, rfl, fun _ => rfl, rfl, rfl, rfl, rfl, fun _ => rfl,
    fun _ _ => ⟨assemble_frameEncode, assemble_frameEncode_refused⟩⟩

end Sys2Proof

namespace Sys2Proof.Machine

open Sys2Proof Sys2Proof.Safety

/-! ### An illegal word, issued and completed -/

/-- A scheduled CMD write with nothing pending issues its word, legal or not (R103, R130). -/
theorem step_issue {s : State} {w : Word} {rest : List Move} (hp : s.pending = none)
    (hm : s.moves = .host ⟨true, 4, 0x00#17, w⟩ :: rest) :
    step s = .next
      { s with pending := some w, done := false, moves := rest,
               responses := s.responses ++ [normalResponse 0#32] } := by
  have hreg : regAt ((0x00#17).toNat / 4) = .cmd := rfl
  have hp' : ({ s with moves := rest } : State).pending = none := hp
  rw [step_writeReg hm (by decide) (by decide), hreg, writeReg, issue, unlessPending_idle _ hp']

/-- The engine's turn with an illegal word pending: ILLEGAL, and no other effect (R141). -/
theorem step_illegal {s : State} {w : Word} {r : IllegalWord} {rest : List Move}
    (hp : s.pending = some w) (hd : decodeCmd w = .error r) (hm : s.moves = .engine :: rest) :
    step s = .next
      { s with ok := false, err := .illegal, done := true, pending := none, moves := rest } := by
  rw [step_engine hm, engineStep_of_illegal (s := { s with moves := rest }) hp hd, execIllegal_eq]
  rfl

/-- Settles O3: the conditions by `decodeCmd_error_iff`; the run is the step that issues the word
and the engine's step that fails it. -/
theorem illegalWordsAreIssuedAndFail : Obligations.IllegalWordsAreIssuedAndFail := by
  intro w
  refine ⟨decodeCmd_error_iff w, fun ⟨r, hd⟩ s rest hp hm => ?_⟩
  refine ⟨normalResponse 0#32, rfl, ?_⟩
  rw [runSteps_succ_of_next 1 (step_issue hp hm),
    runSteps_succ_of_next 0 (step_illegal rfl hd rfl), runSteps]

end Sys2Proof.Machine

/-! The commands' common statements (spec/40_commands_common.md): issue (R130), NOP (R140), the
illegal command (R141). -/

namespace Sys2Proof

/-- OP = 0 with anything else set is no command: the word would be that of a command whose OP is 0,
and NOP is the only one (R140). -/
theorem illegal_of_opField_zero {w : Word} (hop : opField w = 0) (hw : w ≠ encode .nop) :
    ∃ r, decodeCmd w = .error r := by
  cases hd : decodeCmd w with
  | error r => exact ⟨r, rfl⟩
  | ok i =>
    have hwi : w = encode i := (decodeCmd_eq_ok_iff w i).mp hd
    obtain ⟨-, -, hi⟩ := hasFieldsOf_encode i
    have hzero : i.opcode = 0 := by rw [← hi, ← hwi, hop]
    cases i with
    | nop => exact absurd hwi hw
    | csumCompute | csumVerify | frameEncode | frameDecode => simp [Instr.opcode] at hzero

end Sys2Proof

namespace Sys2Proof.Machine

open Sys2Proof Sys2Proof.Safety

/-! ### STATUS after a completion -/

/-- What STATUS reads as after a completion with no dropped write on record: the verdict, DONE, and
not BUSY (R35, R134). -/
theorem statusWord_of_completed {t : State} {ok : Bool} {err : CmdErr} (hp : t.pending = none)
    (hd : t.done = true) (hw : t.werr = false) (hok : t.ok = ok) (herr : t.err = err) :
    statusWord t = (errCode err ++ 0#1 ++ BitVec.ofBool ok ++ 1#1 ++ 0#1).zeroExtend 32 := by
  rw [statusWord, busy, hp, hd, hw, hok, herr]
  rfl

/-- Settles O4: the completion is `step_illegal`, and STATUS is read off the completed state. -/
theorem illegalCommandCompletes : Obligations.IllegalCommandCompletes := by
  refine ⟨⟨_, rfl⟩, ⟨_, rfl⟩, fun s w r rest hp hd hm => ?_⟩
  exact ⟨_, step_illegal hp hd hm, rfl, rfl,
    fun hw => Eq.trans
      (statusWord_of_completed (ok := false) (err := .illegal) rfl rfl hw rfl rfl) rfl⟩

/-! ### Issue -/

/-- A scheduled CMD write while a command is pending is dropped: only WERR records it (R130, R78). -/
theorem step_issue_of_pending {s : State} {w : Word} {rest : List Move} (hp : s.pending ≠ none)
    (hm : s.moves = .host ⟨true, 4, 0x00#17, w⟩ :: rest) :
    step s = .next
      { s with werr := true, moves := rest,
               responses := s.responses ++ [normalResponse 0#32] } := by
  obtain ⟨v, hv⟩ := Option.ne_none_iff_exists'.mp hp
  have hdrop : DroppableWrite s.params ⟨true, 4, 0x00#17, w⟩ :=
    ⟨rfl, .inl ⟨⟨Nat.zero_lt_succ _, rfl, rfl⟩, .inl rfl⟩⟩
  exact step_of_busTransaction hm
    (busTransaction_of_droppable (s := { s with moves := rest }) hv hdrop)

/-- Settles O11: `step_issue` and `step_issue_of_pending`, which answer alike. -/
theorem issueLatchesTheWord : Obligations.IssueLatchesTheWord := fun _ _ _ hm =>
  ⟨normalResponse 0#32, rfl, fun hp => step_issue hp hm, fun hp => step_issue_of_pending hp hm⟩

/-! ### NOP -/

/-- NOP has no effect but the flags of its completion (R140). -/
theorem exec_nop (s : State) :
    exec .nop s = .next { s with ok := true, err := .none, done := true, pending := none } := by
  rw [exec_eq_complete, outcomeOf, complete, finish_effects, applyEffects_empty]
  rfl

/-- The engine's turn with NOP pending (R140). -/
theorem step_nop {s : State} {rest : List Move} (hp : s.pending = some (encode .nop))
    (hm : s.moves = .engine :: rest) :
    step s = .next
      { s with ok := true, err := .none, done := true, pending := none, moves := rest } := by
  rw [step_engine hm,
    engineStep_of_legal (s := { s with moves := rest }) hp (decodeCmd_encode .nop), exec_nop]

/-- NOP issued to an idle CFE and completed: beside the flags, only the schedule and the response log
moved on (R130, R140). -/
theorem runSteps_issue_nop {s : State} {rest : List Move} (hp : s.pending = none)
    (hm : s.moves = .host ⟨true, 4, 0x00#17, encode .nop⟩ :: .engine :: rest) :
    runSteps 2 s = .next
      { s with ok := true, err := .none, done := true, pending := none, moves := rest,
               responses := s.responses ++ [normalResponse 0#32] } := by
  rw [runSteps_succ_of_next 1 (step_issue hp hm), runSteps_succ_of_next 0 (step_nop rfl rfl),
    runSteps]

/-- Settles O21: the decoder's clauses by `decodeCmd_encode` and `illegal_of_opField_zero`, the effect
by `exec_nop`; the example is `runSteps_issue_nop` at power-on. -/
theorem nopCompletesWithOk : Obligations.NopCompletesWithOk :=
  ⟨decodeCmd_encode .nop, fun _ hop hw => illegal_of_opField_zero hop hw, exec_nop,
    fun _ _ => ⟨_, runSteps_issue_nop rfl rfl,
      Eq.trans
        (statusWord_of_completed (ok := true) (err := .none) rfl rfl rfl rfl rfl) rfl⟩⟩

end Sys2Proof.Machine

/-! The checksum's statements (spec/41_checksum.md): the fold (R163), the sum and its words (R160 to
R165), the checksum (R166), what `verifies` detects and what it cannot (R180 to R184), and the two
checksum commands (R170, R175). -/

namespace Sys2Proof.Machine

open Sys2Proof Sys2Proof.Safety

/-! ### The fold -/

/-- A round keeps the residue mod 0xFFFF and keeps the value positive, so the last one leaves the
only such value below 0x10000 (R163). -/
theorem foldRounds_of_pos {fuel T : Nat} (hfuel : T ≤ fuel) (hT : 0 < T) :
    foldRounds fuel T = 1 + (T - 1) % 0xFFFF := by
  induction fuel generalizing T with
  | zero => omega
  | succ fuel ih =>
    by_cases h : T < 0x10000
    · rw [foldRounds_of_lt _ h]
      omega
    · rw [foldRounds_of_ge _ (by omega), ih (by omega) (by omega)]
      omega

theorem fold_of_pos {T : Nat} (hT : 0 < T) : fold T = 1 + (T - 1) % 0xFFFF :=
  foldRounds_of_pos (Nat.le_refl T) hT

@[simp] theorem fold_zero : fold 0 = 0 := rfl

/-- What fixes a fold: its range, its residue, and that only 0 folds to 0 (R163). -/
theorem fold_spec (T : Nat) :
    fold T ≤ 0xFFFF ∧ fold T ≤ T ∧ fold T % 0xFFFF = T % 0xFFFF ∧ (fold T = 0 ↔ T = 0) := by
  rcases Nat.eq_zero_or_pos T with rfl | hT
  · simp
  · rw [fold_of_pos hT]
    omega

/-- Two totals fold alike when their residues agree and neither or both are 0 (R163). -/
theorem fold_congr {T U : Nat} (hmod : T % 0xFFFF = U % 0xFFFF) (hzero : T = 0 ↔ U = 0) :
    fold T = fold U := by
  have hT := fold_spec T
  have hU := fold_spec U
  omega

/-- A round of end-around carry does not change the fold (R162). -/
theorem fold_round {T : Nat} (h : 0x10000 ≤ T) : fold (T % 0x10000 + T / 0x10000) = fold T :=
  fold_congr (by omega) (by omega)

/-- The defining equation of R162. -/
theorem fold_eq (T : Nat) :
    fold T = if T / 0x10000 = 0 then T else fold (T % 0x10000 + T / 0x10000) := by
  split
  · exact fold_of_lt (by omega)
  · exact (fold_round (by omega)).symm

theorem fold_eq_max_iff (T : Nat) : fold T = 0xFFFF ↔ 0 < T ∧ T % 0xFFFF = 0 := by
  have := fold_spec T
  omega

/-- Folding a part of a sum early changes nothing (R164). -/
theorem fold_fold_add (T U : Nat) : fold (fold T + U) = fold (T + U) := by
  have := fold_spec T
  exact fold_congr (by omega) (by omega)

theorem fold_add_fold (T U : Nat) : fold (T + fold U) = fold (T + U) := by
  rw [Nat.add_comm, fold_fold_add, Nat.add_comm]

/-- Settles O45: the bound from `fold_spec`, the closed form by `fold_of_pos`. -/
theorem foldIsExact : Obligations.FoldIsExact := by
  intro T
  obtain ⟨hmax, -, -, -⟩ := fold_spec T
  exact ⟨by omega, fun h => by omega, fun h => h ▸ fold_zero, fold_of_pos, fold_eq_max_iff T⟩

/-! ### The words and their sum -/

/-- Half the byte count, rounded up (R160). -/
theorem length_pairWords (b : List Byte) : (pairWords b).length = (b.length + 1) / 2 := by
  induction b using pairWords.induct with
  | case1 => rfl
  | case2 hi => simp
  | case3 hi lo rest ih =>
    rw [pairWords_cons_cons, List.length_cons, ih, List.length_cons, List.length_cons]
    omega

/-- Word `i` by its two bytes (R160). -/
theorem toNat_getD_pairWords (b : List Byte) (i : Nat) :
    ((pairWords b).getD i 0#16).toNat
      = (b.getD (2 * i) 0#8).toNat * 256 + (b.getD (2 * i + 1) 0#8).toNat := by
  induction b using pairWords.induct generalizing i with
  | case1 => simp
  | case2 hi => cases i <;> simp [toNat_halfOf, Nat.mul_add]
  | case3 hi lo rest ih =>
    cases i with
    | zero => exact toNat_halfOf hi lo
    | succ i => exact ih i

/-- The sum of a word list by index. -/
theorem map_toNat_eq_range (ws : List Half) :
    ws.map BitVec.toNat = (List.range ws.length).map fun i => (ws.getD i 0#16).toNat :=
  List.ext_getElem (by simp) fun i h _ => by
    rw [List.length_map] at h
    simp [h]

theorem toNat_onesSum (b : List Byte) : (onesSum b).toNat = fold (rawSum b) := by
  obtain ⟨hmax, -, -, -⟩ := fold_spec (rawSum b)
  exact Nat.mod_eq_of_lt (by omega)

theorem toNat_onesAdd (a b : Half) : (onesAdd a b).toNat = fold (a.toNat + b.toNat) := by
  obtain ⟨hmax, -, -, -⟩ := fold_spec (a.toNat + b.toNat)
  exact Nat.mod_eq_of_lt (by omega)

/-- Settles O44: `words` pairs the padded bytes, so its values are those of
`toNat_getD_pairWords`. -/
theorem onesSumFoldsTheBigEndianWords : Obligations.OnesSumFoldsTheBigEndianWords := by
  refine ⟨fun b p hp => ?_, fold_eq, rfl, rfl⟩
  have hlen : (words b).length = (b.length + 1) / 2 := by
    rw [words_eq_pairWords, length_pairWords]
  have hword (i : Nat) : ((words b).getD i 0#16).toNat
      = (p.getD (2 * i) 0#8).toNat * 256 + (p.getD (2 * i + 1) 0#8).toNat := by
    rw [hp]
    exact toNat_getD_pairWords (pad b) i
  refine ⟨hlen, fun i _ => hword i, ?_⟩
  rw [toNat_onesSum, rawSum, map_toNat_eq_range, hlen]
  simp only [hword]

/-! ### One's-complement addition -/

theorem onesAdd_comm (a b : Half) : onesAdd a b = onesAdd b a := by
  rw [onesAdd, Nat.add_comm, onesAdd]

/-- Either grouping is the fold of the three summands' total (R165). -/
theorem onesAdd_assoc (a b c : Half) : onesAdd (onesAdd a b) c = onesAdd a (onesAdd b c) := by
  apply BitVec.eq_of_toNat_eq
  simp only [toNat_onesAdd]
  rw [fold_fold_add, fold_add_fold, Nat.add_assoc]

theorem onesAdd_zero (a : Half) : onesAdd a 0#16 = a := by
  apply BitVec.eq_of_toNat_eq
  rw [toNat_onesAdd]
  exact fold_of_lt a.isLt

/-- Folding after every word or once at the end (R164, R165). -/
theorem toNat_foldr_onesAdd (ws : List Half) :
    (ws.foldr onesAdd 0#16).toNat = fold (ws.map BitVec.toNat).sum := by
  induction ws with
  | nil => rfl
  | cons w ws ih =>
    rw [List.foldr_cons, toNat_onesAdd, ih, fold_add_fold, List.map_cons, List.sum_cons]

theorem onesSum_eq_foldr (b : List Byte) : onesSum b = (words b).foldr onesAdd 0#16 :=
  BitVec.eq_of_toNat_eq (by rw [toNat_onesSum, toNat_foldr_onesAdd, rawSum])

theorem onesSum_append_even {x : List Byte} (y : List Byte) (hx : x.length % 2 = 0) :
    onesSum (x ++ y) = onesAdd (onesSum x) (onesSum y) := by
  apply BitVec.eq_of_toNat_eq
  simp only [toNat_onesAdd, toNat_onesSum]
  rw [rawSum_append_even y hx, fold_fold_add, fold_add_fold]

/-- Settles O47, law by law.  After one byte the split fails: 0x1234 is not 0x1200 ⊕ 0x3400. -/
theorem onesAddLaws : Obligations.OnesAddLaws :=
  ⟨onesAdd_comm, onesAdd_assoc, onesAdd_zero, onesSum_eq_foldr, fun _ y => onesSum_append_even y,
    [0x12#8], [0x34#8], rfl, by decide⟩

/-! ### The checksum and the verdict -/

theorem toNat_checksum (b : List Byte) : (checksum b).toNat = 0xFFFF - fold (rawSum b) := by
  rw [checksum, BitVec.toNat_not, toNat_onesSum]

/-- The checksum is 0 exactly when the sum is all ones (R166). -/
theorem checksum_eq_zero_iff (b : List Byte) : checksum b = 0x0000#16 ↔ onesSum b = 0xFFFF#16 := by
  have hones : (0xFFFF#16 : Half) = ~~~ 0x0000#16 := rfl
  rw [checksum, BitVec.not_eq_comm, hones]

/-- Settles O48: `toNat_checksum`, `checksum_eq_zero_iff`, and the definition of `verifies`. -/
theorem checksumIsTheComplement : Obligations.ChecksumIsTheComplement := by
  intro b
  rw [toNat_onesSum]
  exact ⟨toNat_checksum b, checksum_eq_zero_iff b, decide_eq_true_iff⟩

/-- `verifies` as a residue of the raw sum (R163, R167). -/
theorem verifies_iff (b : List Byte) :
    verifies b = true ↔ 0 < rawSum b ∧ rawSum b % 0xFFFF = 0 := by
  rw [verifies, decide_eq_true_iff, ← BitVec.toNat_inj, toNat_onesSum]
  exact fold_eq_max_iff (rawSum b)

@[simp] theorem rawSum_single (hi : Byte) : rawSum [hi] = hi.toNat * 256 := by
  simp [rawSum_eq, toNat_halfOf]

@[simp] theorem rawSum_cons_cons (hi lo : Byte) (rest : List Byte) :
    rawSum (hi :: lo :: rest) = hi.toNat * 256 + lo.toNat + rawSum rest := by
  simp [rawSum_eq, toNat_halfOf]

/-- Only all-zero bytes have raw sum 0 (R180). -/
theorem rawSum_eq_zero_iff (b : List Byte) : rawSum b = 0 ↔ ∀ x ∈ b, x = 0x00#8 := by
  induction b using pairWords.induct with
  | case1 => simp
  | case2 hi => simp [← BitVec.toNat_inj (y := 0x00#8)]
  | case3 hi lo rest ih =>
    rw [rawSum_cons_cons, List.forall_mem_cons, List.forall_mem_cons, ← ih,
      ← BitVec.toNat_inj (x := hi), ← BitVec.toNat_inj (x := lo)]
    simp only [BitVec.toNat_ofNat]
    omega

theorem onesSum_replicate_zero (n : Nat) : onesSum (List.replicate n 0x00#8) = 0#16 := by
  rw [onesSum, (rawSum_eq_zero_iff _).mpr fun _ => List.eq_of_mem_replicate, fold_zero]

/-- Settles O49: `onesSum_replicate_zero`, whose complement is 0xFFFF. -/
theorem zeroInputs : Obligations.ZeroInputs := by
  refine ⟨fun n => ⟨onesSum_replicate_zero n, ?_⟩, rfl, rfl, rfl⟩
  rw [checksum, onesSum_replicate_zero]
  rfl

/-! ### The round trip -/

/-- Two bytes at an even offset contribute one word (R160). -/
theorem rawSum_append_pair_append {x : List Byte} (hi lo : Byte) (y : List Byte)
    (hx : x.length % 2 = 0) :
    rawSum (x ++ [hi, lo] ++ y) = rawSum x + (halfOf hi lo).toNat + rawSum y := by
  rw [List.append_assoc, rawSum_append_even _ hx, List.cons_append, List.cons_append,
    List.nil_append, rawSum_cons_cons, ← toNat_halfOf, Nat.add_assoc]

/-- The checksum in place of the zero word makes the residue 0 and the raw sum positive (R181). -/
theorem verifies_of_halfOf_eq_checksum {x y : List Byte} {hi lo : Byte} (hx : x.length % 2 = 0)
    (hc : halfOf hi lo = checksum (x ++ [0x00#8, 0x00#8] ++ y)) :
    verifies (x ++ [hi, lo] ++ y) = true := by
  have hzero : rawSum (x ++ [0x00#8, 0x00#8] ++ y) = rawSum x + rawSum y :=
    rawSum_append_pair_append 0 0 y hx
  rw [verifies_iff, rawSum_append_pair_append hi lo y hx, hc, toNat_checksum, hzero]
  have := fold_spec (rawSum x + rawSum y)
  omega

theorem hiByte_eq (h : Half) : hiByte h = BitVec.ofNat 8 (h.toNat / 256) := by
  rw [hiByte, BitVec.extractLsb', Nat.shiftRight_eq_div_pow]

theorem loByte_eq (h : Half) : loByte h = BitVec.ofNat 8 h.toNat := rfl

/-- A 16-bit value is its two bytes, the high one first (R73). -/
theorem halfOf_hiByte_loByte (h : Half) : halfOf (hiByte h) (loByte h) = h :=
  BitVec.extractLsb'_append_extractLsb'

/-- The header before the checksum has four bytes (R190). -/
theorem length_preHeader (s k : Byte) (p : List Byte) : (preHeader s k p).length = 4 := rfl

/-- Settles O50: `verifies_of_halfOf_eq_checksum`, for the frame with `x` its four-byte header. -/
theorem checksumRoundTrip : Obligations.ChecksumRoundTrip := by
  refine ⟨fun x y c hx hc => ?_, fun s k p => ?_⟩
  · rw [← hiByte_eq, ← loByte_eq]
    exact verifies_of_halfOf_eq_checksum hx ((halfOf_hiByte_loByte c).trans hc)
  · have heven : (preHeader s k p).length % 2 = 0 := by rw [length_preHeader]
    exact verifies_of_halfOf_eq_checksum heven (halfOf_hiByte_loByte _)

/-! ### What is detected -/

/-- A byte's weight in the raw sum: at an even offset it is the high byte of its word (R160). -/
def byteWeight (j : Nat) : Nat := if j % 2 = 0 then 256 else 1

@[simp] theorem byteWeight_zero : byteWeight 0 = 256 := rfl

@[simp] theorem byteWeight_one : byteWeight 1 = 1 := rfl

@[simp] theorem byteWeight_add_two (j : Nat) : byteWeight (j + 2) = byteWeight j := by
  simp [byteWeight]

/-- A byte counts at most as a high byte. -/
theorem byteWeight_cases (j : Nat) : byteWeight j = 256 ∨ byteWeight j = 1 := by
  unfold byteWeight
  split
  · exact .inl rfl
  · exact .inr rfl

/-- Replacing one byte moves the raw sum by the byte's change times its weight. -/
theorem rawSum_set {f : List Byte} {j : Nat} {b : Byte} (b' : Byte) (hj : f[j]? = some b) :
    rawSum (f.set j b') + byteWeight j * b.toNat = rawSum f + byteWeight j * b'.toNat := by
  induction f using pairWords.induct generalizing j with
  | case1 => simp at hj
  | case2 hi =>
    cases j with
    | zero =>
      obtain rfl : hi = b := by simpa using hj
      simp only [List.set_cons_zero, rawSum_single, byteWeight_zero]
      omega
    | succ j => simp at hj
  | case3 hi lo rest ih =>
    match j with
    | 0 =>
      obtain rfl : hi = b := by simpa using hj
      simp only [List.set_cons_zero, rawSum_cons_cons, byteWeight_zero]
      omega
    | 1 =>
      obtain rfl : lo = b := by simpa using hj
      simp only [List.set_cons_succ, List.set_cons_zero, rawSum_cons_cons, byteWeight_one]
      omega
    | j + 2 =>
      have hrest := ih hj
      simp only [List.set_cons_succ, rawSum_cons_cons, byteWeight_add_two]
      omega

/-- No change of one byte is undetected: it moves the raw sum by at most 0xFF00, which is not a
multiple of 0xFFFF (R183). -/
theorem verifies_set {f : List Byte} {j : Nat} {b b' : Byte} (hf : verifies f = true)
    (hj : f[j]? = some b) (hne : b' ≠ b) : verifies (f.set j b') = false := by
  obtain ⟨-, hmod⟩ := (verifies_iff f).mp hf
  have hset := rawSum_set b' hj
  have hne : b'.toNat ≠ b.toNat := fun h => hne (BitVec.eq_of_toNat_eq h)
  rw [Bool.eq_false_iff, ne_eq, verifies_iff]
  rintro ⟨-, hmod'⟩
  rcases byteWeight_cases j with hw | hw <;> rw [hw] at hset <;> omega

/-- A flipped bit is a changed byte. -/
theorem xor_bit_ne (b : Byte) {k : Nat} (hk : k < 8) : b ^^^ (1#8 <<< k) ≠ b := by
  intro h
  have hbit := congrArg (·.getLsbD k) h
  simp [hk] at hbit

/-- Settles O51: `verifies_set` for the byte with its bit flipped. -/
theorem singleBitErrorsAreDetected : Obligations.SingleBitErrorsAreDetected :=
  fun _ _ _ b hf hj hk => verifies_set hf hj (xor_bit_ne b hk)

/-! ### What cannot be detected -/

/-- The verdict depends only on the raw sum's residue and on its being positive (R184). -/
theorem verifies_congr {b b' : List Byte} (hmod : rawSum b % 0xFFFF = rawSum b' % 0xFFFF)
    (hzero : rawSum b = 0 ↔ rawSum b' = 0) : verifies b = verifies b' := by
  rw [verifies, verifies, onesSum, onesSum, fold_congr hmod hzero]

/-- Two pairs of bytes, both at even offsets, contribute two words (R160). -/
theorem rawSum_two_pairs {x y : List Byte} (a b c d : Byte) (z : List Byte)
    (hx : x.length % 2 = 0) (hy : y.length % 2 = 0) :
    rawSum (x ++ [a, b] ++ y ++ [c, d] ++ z)
      = rawSum x + rawSum y + rawSum z + ((halfOf a b).toNat + (halfOf c d).toNat) := by
  have hpre : (x ++ [a, b] ++ y).length % 2 = 0 := by
    simp only [List.length_append, List.length_cons, List.length_nil]
    omega
  rw [rawSum_append_pair_append c d z hpre, rawSum_append_pair_append a b y hx]
  omega

/-- Changing two words by amounts that cancel is not seen (R184). -/
theorem verifies_of_cancelling {x y z : List Byte} {a b c d a' b' c' d' : Byte}
    (hx : x.length % 2 = 0) (hy : y.length % 2 = 0)
    (h : (halfOf a b).toNat + (halfOf c d).toNat = (halfOf a' b').toNat + (halfOf c' d').toNat) :
    verifies (x ++ [a, b] ++ y ++ [c, d] ++ z)
      = verifies (x ++ [a', b'] ++ y ++ [c', d'] ++ z) := by
  have hsum : rawSum (x ++ [a, b] ++ y ++ [c, d] ++ z)
      = rawSum (x ++ [a', b'] ++ y ++ [c', d'] ++ z) := by
    rw [rawSum_two_pairs a b c d z hx hy, rawSum_two_pairs a' b' c' d' z hx hy, h]
  exact verifies_congr (by rw [hsum]) (by rw [hsum])

/-- 0x0000 against 0xFFFF beside a nonzero word: same residue, and positive either way (R184). -/
theorem verifies_zero_word_eq_ones_word {x z : List Byte} (hx : x.length % 2 = 0)
    (hpos : 0 < rawSum (x ++ z)) :
    verifies (x ++ [0x00#8, 0x00#8] ++ z) = verifies (x ++ [0xFF#8, 0xFF#8] ++ z) := by
  have hzeros : rawSum (x ++ [0x00#8, 0x00#8] ++ z) = rawSum x + 0 + rawSum z :=
    rawSum_append_pair_append _ _ z hx
  have hones : rawSum (x ++ [0xFF#8, 0xFF#8] ++ z) = rawSum x + 0xFFFF + rawSum z :=
    rawSum_append_pair_append _ _ z hx
  rw [rawSum_append_even z hx] at hpos
  exact verifies_congr (by omega) (by omega)

/-- Settles O52: the residue rule is `verifies_congr`; swapped words are two changes that cancel. -/
theorem undetectedErrors : Obligations.UndetectedErrors :=
  ⟨fun _ _ hmod hb hb' => verifies_congr hmod (iff_of_false hb.ne' hb'.ne'),
    fun _ _ _ _ _ _ _ hx hy => verifies_of_cancelling hx hy (Nat.add_comm _ _),
    fun _ _ hx hpos => verifies_zero_word_eq_ones_word hx hpos,
    fun _ _ _ _ _ _ _ _ _ _ _ hx hy h => verifies_of_cancelling hx hy h⟩

/-! ### The commands -/

/-- A command with a known outcome (R134). -/
theorem exec_of_outcome {i : Instr} {s : State} {o : CmdOutcome} (h : outcomeOf i s = o) :
    exec i s = .next (complete o s) := by
  rw [exec_eq_complete, h]

/-- A raised error writes the flags of its completion and nothing else (R12, R134). -/
theorem complete_raise (c : CmdErr) (s : State) :
    complete (raise c) s = { s with ok := false, err := c, done := true, pending := none } := rfl

/-- Both checksum commands write RESULT from the sum, whatever the verdict (R170, R175). -/
theorem complete_sumEffects (S : Half) (ok : Bool) (err : CmdErr) (s : State) :
    complete ⟨sumEffects S, ok, err⟩ s
      = { s with sum := S, csum := ~~~ S, ok := ok, err := err, done := true, pending := none } :=
  rfl

/-- CSUM_COMPUTE past the buffer's size (R170). -/
theorem exec_csumCompute_of_range {s : State} (h : s.params.maxPayload.val + 6 < s.len.toNat) :
    exec .csumCompute s = .next
      { s with ok := false, err := .range, done := true, pending := none } := by
  rcases csumComputeOutcome_cases s.params s.len s.fb with ⟨-, ho⟩ | ⟨hle, -⟩
  · rw [exec_of_outcome (i := .csumCompute) ho, complete_raise]
  · rw [bufBytes_eq] at hle
    omega

/-- CSUM_COMPUTE within the buffer (R170). -/
theorem exec_csumCompute_of_le {s : State} (h : s.len.toNat ≤ s.params.maxPayload.val + 6) :
    exec .csumCompute s = .next
      { s with
        sum := onesSum (Memory.readBytes s.fb 0 s.len.toNat)
        csum := ~~~ onesSum (Memory.readBytes s.fb 0 s.len.toNat)
        ok := true, err := .none, done := true, pending := none } := by
  rcases csumComputeOutcome_cases s.params s.len s.fb with ⟨hlt, -⟩ | ⟨-, ho⟩
  · rw [bufBytes_eq] at hlt
    omega
  · rw [exec_of_outcome (i := .csumCompute) ho, finish, complete_sumEffects, inputBytes]

/-- The word sum of the example's 13 bytes (R170). -/
theorem onesSum_helloWorld :
    onesSum [0x48#8, 0x65#8, 0x6C#8, 0x6C#8, 0x6F#8, 0x2C#8, 0x20#8, 0x57#8, 0x6F#8, 0x72#8, 0x6C#8,
      0x64#8, 0x21#8] = 0x412C#16 := by decide

/-- Settles O22: one lemma on each side of the range check; the example is the second one at
LEN = 13 with `onesSum_helloWorld`. -/
theorem csumComputeResult : Obligations.CsumComputeResult := by
  refine ⟨decodeCmd_encode .csumCompute,
    fun s => ⟨exec_csumCompute_of_range, exec_csumCompute_of_le⟩, fun s hlen hfits hbytes => ?_⟩
  have hlen' : s.len.toNat = 13 := by rw [hlen]; rfl
  have hexec := exec_csumCompute_of_le (s := s) (by omega)
  rw [hlen', hbytes, onesSum_helloWorld] at hexec
  have hresult : (0x412C#16 ++ ~~~ 0x412C#16 : Word) = 0x412CBED3#32 := by decide
  exact ⟨_, hexec, hresult,
    fun hw => Eq.trans (statusWord_of_completed (ok := true) (err := .none) rfl rfl hw rfl rfl) rfl⟩

/-- CSUM_VERIFY past the buffer's size (R175). -/
theorem exec_csumVerify_of_range {s : State} (h : s.params.maxPayload.val + 6 < s.len.toNat) :
    exec .csumVerify s = .next
      { s with ok := false, err := .range, done := true, pending := none } := by
  rcases csumVerifyOutcome_cases s.params s.len s.fb with ⟨-, ho⟩ | ⟨hle, -⟩ | ⟨hle, -⟩
  · rw [exec_of_outcome (i := .csumVerify) ho, complete_raise]
  all_goals
    rw [bufBytes_eq] at hle
    omega

/-- CSUM_VERIFY within the buffer, both verdicts at once: RESULT is written either way (R175). -/
theorem exec_csumVerify_of_le {s : State} (h : s.len.toNat ≤ s.params.maxPayload.val + 6) :
    exec .csumVerify s = .next
      { s with
        sum := onesSum (Memory.readBytes s.fb 0 s.len.toNat)
        csum := ~~~ onesSum (Memory.readBytes s.fb 0 s.len.toNat)
        ok := verifies (Memory.readBytes s.fb 0 s.len.toNat)
        err := if verifies (Memory.readBytes s.fb 0 s.len.toNat) then .none else .checksum
        done := true, pending := none } := by
  rcases csumVerifyOutcome_cases s.params s.len s.fb with ⟨hlt, -⟩ | ⟨-, hS, ho⟩ | ⟨-, hS, ho⟩
  · rw [bufBytes_eq] at hlt
    omega
  · have hv : verifies (Memory.readBytes s.fb 0 s.len.toNat) = true := decide_eq_true hS
    rw [exec_of_outcome (i := .csumVerify) ho, finish, complete_sumEffects, hv, inputBytes]
    rfl
  · have hv : verifies (Memory.readBytes s.fb 0 s.len.toNat) = false := decide_eq_false hS
    rw [exec_of_outcome (i := .csumVerify) ho, finishVerdict, complete_sumEffects, hv, inputBytes]
    rfl

/-- The example's 19 bytes, the frame of "Hello, World!" with its first byte `b` (R175). -/
def helloFrame (b : Byte) : List Byte :=
  [b, 0x00#8, 0x00#8, 0x0D#8, 0xBE#8, 0xC6#8, 0x48#8, 0x65#8, 0x6C#8, 0x6C#8, 0x6F#8, 0x2C#8,
    0x20#8, 0x57#8, 0x6F#8, 0x72#8, 0x6C#8, 0x64#8, 0x21#8]

theorem onesSum_helloFrame : onesSum (helloFrame 0x00#8) = 0xFFFF#16 := by decide

theorem onesSum_helloFrame_flipped : onesSum (helloFrame 0x01#8) = 0x0100#16 := by decide

/-- Settles O23: one lemma on each side of the range check, the verdict then read off the sum; the
examples are the second lemma at LEN = 19 with their sums. -/
theorem csumVerifyResult : Obligations.CsumVerifyResult := by
  refine ⟨decodeCmd_encode .csumVerify,
    fun s => ⟨exec_csumVerify_of_range, fun hle hS => ?valid, fun hle hS => ?corrupt⟩,
    fun s b hlen hfits hbytes => ?examples⟩
  case valid =>
    rw [exec_csumVerify_of_le hle, verifies, decide_eq_true hS, hS]
    rfl
  case corrupt =>
    rw [exec_csumVerify_of_le hle, verifies, decide_eq_false hS]
    rfl
  case examples =>
    have hlen' : s.len.toNat = 19 := by rw [hlen]; rfl
    have hexec := exec_csumVerify_of_le (s := s) (by omega)
    rw [hlen', hbytes, ← helloFrame] at hexec
    refine ⟨_, hexec, fun hb => ?_, fun hb => ?_⟩
    · simp only [hb, readReg, verifies, onesSum_helloFrame]
      decide
    · simp only [hb, readReg, verifies, onesSum_helloFrame_flipped]
      decide

end Sys2Proof.Machine

/-! The framer's statements (spec/42_framer.md): frame construction (R190), FRAME_ENCODE (R195),
FRAME_DECODE (R191, R192, R205, R208), and the one after the other (R196). -/

namespace Sys2Proof.Machine

open Sys2Proof Sys2Proof.Safety

/-! ### The frame -/

theorem seqByte_eq (seq : BitVec 1) : seqByte seq = BitVec.ofNat 8 seq.toNat :=
  (BitVec.ofNat_toNat 8 seq).symm

theorem kindByte_eq (kind : BitVec 2) : kindByte kind = BitVec.ofNat 8 kind.toNat :=
  (BitVec.ofNat_toNat 8 kind).symm

theorem toNat_seqByte (seq : BitVec 1) : (seqByte seq).toNat = seq.toNat :=
  BitVec.toNat_setWidth_of_le (by decide)

theorem toNat_kindByte (kind : BitVec 2) : (kindByte kind).toNat = kind.toNat :=
  BitVec.toNat_setWidth_of_le (by decide)

/-- The four bytes before the checksum, by arithmetic on the payload's length (R190). -/
theorem preHeader_eq (s k : Byte) {p : List Byte} (hp : p.length ≤ 0xFFFF) :
    preHeader s k p = [s, k, BitVec.ofNat 8 (p.length / 256), BitVec.ofNat 8 p.length] := by
  have hlen : (BitVec.ofNat 16 p.length).toNat = p.length := Nat.mod_eq_of_lt (by omega)
  rw [preHeader, hiByte_eq, loByte_eq, hlen]

/-- The six header bytes by arithmetic (R190). -/
theorem frameHeader_eq {s k : Byte} {p pre : List Byte} {c : Half} (hp : p.length ≤ 0xFFFF)
    (hpre : pre = [s, k, BitVec.ofNat 8 (p.length / 256), BitVec.ofNat 8 p.length])
    (hc : c = checksum (pre ++ [0x00#8, 0x00#8] ++ p)) :
    frameHeader s k p = pre ++ [BitVec.ofNat 8 (c.toNat / 256), BitVec.ofNat 8 c.toNat] := by
  rw [frameHeader, zeroedFrame, preHeader_eq s k hp, ← hpre, ← hc, hiByte_eq, loByte_eq]

theorem length_frame (s k : Byte) (p : List Byte) : (frame s k p).length = 6 + p.length := by
  rw [frame, List.length_append, length_frameHeader]

/-- Settles O54: the header is `frameHeader_eq`, the length `length_frame`. -/
theorem frameConstruction : Obligations.FrameConstruction := by
  intro s k p pre c hp hpre hc
  exact ⟨by rw [frame, frameHeader_eq hp hpre hc], length_frame s k p⟩

/-! ### Well-formedness -/

theorem toNat_be16 (f : List Byte) (i : Nat) :
    (be16 f i).toNat = (byteAt f i).toNat * 256 + (byteAt f (i + 1)).toNat :=
  toNat_halfOf _ _

/-- The three conditions of R191. -/
theorem frameWf_iff (f : List Byte) :
    frameWf f = true ↔
      6 ≤ f.length ∧ (be16 f 2).toNat = f.length - 6 ∧ onesSum f = 0xFFFF#16 := by
  simp only [frameWf, verifies, Bool.and_eq_true, decide_eq_true_eq, and_assoc]

theorem fieldsInRange_iff (f : List Byte) :
    fieldsInRange f = true ↔ (byteAt f 0).toNat ≤ 1 ∧ (byteAt f 1).toNat ≤ 3 := by
  simp only [fieldsInRange, Bool.and_eq_true, decide_eq_true_eq]

/-- The length field of a frame holds the length of its payload (R190). -/
theorem be16_frame_length (s k : Byte) (p : List Byte) :
    be16 (frame s k p) 2 = BitVec.ofNat 16 p.length :=
  halfOf_hiByte_loByte _

/-- Every frame of R190 is well-formed (R191, R196). -/
theorem frameWf_frame (s k : Byte) {p : List Byte} (hp : p.length ≤ 0xFFFF) :
    frameWf (frame s k p) = true := by
  have hlen : (BitVec.ofNat 16 p.length).toNat = p.length := Nat.mod_eq_of_lt (by omega)
  obtain ⟨-, hverifies⟩ := checksumRoundTrip
  rw [frameWf_iff, length_frame, be16_frame_length, hlen]
  exact ⟨by omega, by omega, of_decide_eq_true (hverifies s k p)⟩

/-- Operand fields are in range by their widths, so STRICT accepts them too (R191, R196). -/
theorem fieldsInRange_frame (seq : BitVec 1) (kind : BitVec 2) (p : List Byte) :
    fieldsInRange (frame (seqByte seq) (kindByte kind) p) = true := by
  have hseq : (byteAt (frame (seqByte seq) (kindByte kind) p) 0).toNat = seq.toNat :=
    toNat_seqByte seq
  have hkind : (byteAt (frame (seqByte seq) (kindByte kind) p) 1).toNat = kind.toNat :=
    toNat_kindByte kind
  rw [fieldsInRange_iff]
  omega

/-- The fields STRICT refuses (R191, R192). -/
theorem fieldsInRange_eq_false_iff (f : List Byte) :
    fieldsInRange f = false ↔ 1 < (byteAt f 0).toNat ∨ 3 < (byteAt f 1).toNat := by
  rw [Bool.eq_false_iff, ne_eq, fieldsInRange_iff]
  omega

/-! ### A command's completion -/

/-- A command whose outcome is an error changes the flags of its completion only (R134, R245). -/
theorem exec_of_raise {i : Instr} {s : State} {c : CmdErr} (h : outcomeOf i s = raise c) :
    exec i s = .next { s with ok := false, err := c, done := true, pending := none } := by
  rw [exec_of_outcome h, complete_raise]

/-- The engine's turn with a command pending (R131, R134). -/
theorem step_pendingCommand {s : State} {i : Instr} {rest : List Move}
    (hp : s.pending = some (encode i)) (hm : s.moves = .engine :: rest) :
    step s = exec i { s with moves := rest } := by
  rw [step_engine hm, engineStep_of_legal (s := { s with moves := rest }) hp (decodeCmd_encode i)]

/-! ### FRAME_ENCODE -/

/-- FRAME_ENCODE of a payload past the limit (R195). -/
theorem exec_frameEncode_of_range (seq : BitVec 1) (kind : BitVec 2) {s : State}
    (h : s.params.maxPayload.val < s.len.toNat) :
    exec (.frameEncode seq kind) s = .next
      { s with ok := false, err := .range, done := true, pending := none } := by
  rcases frameEncodeOutcome_cases seq kind s.params s.len s.fb with ⟨-, ho⟩ | ⟨hle, -⟩
  · exact exec_of_raise (i := .frameEncode seq kind) ho
  · omega

/-- FRAME_ENCODE of a payload within the limit: the header stored, and LEN (R195). -/
theorem exec_frameEncode_of_le (seq : BitVec 1) (kind : BitVec 2) {s : State}
    (h : s.len.toNat ≤ s.params.maxPayload.val) :
    exec (.frameEncode seq kind) s = .next
      { s with
        fb := Memory.writeBytes s.fb 0
          (frameHeader (seqByte seq) (kindByte kind) (Memory.readBytes s.fb 6 s.len.toNat))
        len := BitVec.ofNat 16 (6 + s.len.toNat)
        ok := true, err := .none, done := true, pending := none } := by
  rcases frameEncodeOutcome_cases seq kind s.params s.len s.fb with ⟨hlt, -⟩ | ⟨-, ho⟩
  · omega
  · rw [exec_of_outcome (i := .frameEncode seq kind) ho]
    rfl

/-- The header of the first example, over "Hello, World!" (R195). -/
theorem frameHeader_helloWorld :
    frameHeader (seqByte 0) (kindByte 0) [0x48#8, 0x65#8, 0x6C#8, 0x6C#8, 0x6F#8, 0x2C#8, 0x20#8,
      0x57#8, 0x6F#8, 0x72#8, 0x6C#8, 0x64#8, 0x21#8]
      = [0x00#8, 0x00#8, 0x00#8, 0x0D#8, 0xBE#8, 0xC6#8] := by decide

/-- The header of the second example, an ACK without payload (R195). -/
theorem frameHeader_emptyAck :
    frameHeader (seqByte 1) (kindByte 1) [] = [0x01#8, 0x01#8, 0x00#8, 0x00#8, 0xFE#8, 0xFE#8] := by
  decide

/-- Settles O24: the words are those of `toNat_encode_frameEncode`; one lemma on each side of the
range check, the stored header by `frameHeader_eq`; the examples are the second lemma with their
headers. -/
theorem frameEncodeResult : Obligations.FrameEncodeResult := by
  refine ⟨fun seq kind => ?word, fun seq kind s => ⟨exec_frameEncode_of_range seq kind, ?store⟩,
    fun s hlen hfits hbytes => ?hello, fun s hlen => ?ack⟩
  case word =>
    rw [← toNat_encode_frameEncode, BitVec.ofNat_toNat, BitVec.setWidth_eq, decodeCmd_encode]
  case store =>
    intro hle payload pre c hpayload hpre hc
    have hlength : payload.length = s.len.toNat := by rw [hpayload, Memory.length_readBytes]
    rw [exec_frameEncode_of_le seq kind hle, ← hpayload, seqByte_eq, kindByte_eq,
      frameHeader_eq (by omega) (by rw [hpre, hlength]) hc]
  case hello =>
    have hlen' : s.len.toNat = 13 := by rw [hlen]; rfl
    refine ⟨_, exec_frameEncode_of_le 0 0 (by omega), ?_⟩
    rw [hlen', hbytes, frameHeader_helloWorld]
    exact ⟨rfl, rfl⟩
  case ack =>
    have hlen' : s.len.toNat = 0 := by rw [hlen]; rfl
    refine ⟨_, exec_frameEncode_of_le 1 1 (by omega), ?_⟩
    rw [hlen', Memory.readBytes_zero, frameHeader_emptyAck]
    exact ⟨rfl, rfl⟩

/-! ### FRAME_DECODE: its checks in the order of R192 -/

section Checks

variable {s : State}

/-- Check 1 fails (R192). -/
theorem exec_frameDecode_of_range (h : s.params.maxPayload.val + 6 < s.len.toNat) :
    exec .frameDecode s = .next
      { s with ok := false, err := .range, done := true, pending := none } :=
  exec_of_raise (if_pos ((inputOutOfRange_iff _ _).mpr h))

/-- Check 1 passes, in the model's own terms (R232). -/
theorem not_inputOutOfRange (h : s.len.toNat ≤ s.params.maxPayload.val + 6) :
    ¬ inputOutOfRange s.params s.len = true := by
  rw [inputOutOfRange_iff, bufBytes_eq]
  omega

variable (hfits : s.len.toNat ≤ s.params.maxPayload.val + 6)
include hfits

/-- Check 2 fails (R192). -/
theorem exec_frameDecode_of_short (h : s.len.toNat < 6) :
    exec .frameDecode s = .next
      { s with ok := false, err := .short, done := true, pending := none } :=
  exec_of_raise ((if_neg (not_inputOutOfRange hfits)).trans (if_pos h))

variable (hlong : 6 ≤ s.len.toNat) {f : List Byte} (hf : f = Memory.readBytes s.fb 0 s.len.toNat)
include hlong hf

/-- Check 3 fails (R192). -/
theorem exec_frameDecode_of_length (h : (be16 f 2).toNat ≠ s.len.toNat - 6) :
    exec .frameDecode s = .next
      { s with ok := false, err := .length, done := true, pending := none } := by
  subst hf
  exact exec_of_raise ((if_neg (not_inputOutOfRange hfits)).trans
    ((if_neg (Nat.not_lt.mpr hlong)).trans (if_pos h)))

variable (hlength : (be16 f 2).toNat = s.len.toNat - 6)
include hlength

/-- Check 4 fails (R192). -/
theorem exec_frameDecode_of_checksum (h : onesSum f ≠ 0xFFFF#16) :
    exec .frameDecode s = .next
      { s with ok := false, err := .checksum, done := true, pending := none } := by
  subst hf
  exact exec_of_raise ((if_neg (not_inputOutOfRange hfits)).trans
    ((if_neg (Nat.not_lt.mpr hlong)).trans ((if_neg (not_not.mpr hlength)).trans (if_pos h))))

variable (hsum : onesSum f = 0xFFFF#16)
include hsum

/-- Past check 4, what is left is check 5 and then the four fields (R192, R205). -/
theorem outcomeOf_frameDecode_of_sum :
    outcomeOf .frameDecode s = if s.strict && !fieldsInRange f then raise .field else finish
      { rxSeq := some (byteAt f 0), rxKind := some (byteAt f 1), rxLen := some (be16 f 2),
        rxCsum := some (be16 f 4) } := by
  subst hf
  exact (if_neg (not_inputOutOfRange hfits)).trans ((if_neg (Nat.not_lt.mpr hlong)).trans
    ((if_neg (not_not.mpr hlength)).trans (if_neg (not_not.mpr hsum))))

/-- Check 5 fails, under STRICT only (R192). -/
theorem exec_frameDecode_of_field (hs : s.strict = true) (h : fieldsInRange f = false) :
    exec .frameDecode s = .next
      { s with ok := false, err := .field, done := true, pending := none } := by
  apply exec_of_raise
  rw [outcomeOf_frameDecode_of_sum hfits hlong hf hlength hsum, hs, h]
  rfl

end Checks

/-! ### FRAME_DECODE accepts the well-formed frames -/

/-- What FRAME_DECODE asks of `f`, the bytes of the frame, under R191 with its STRICT extension. -/
abbrev Acceptable (s : State) (f : List Byte) : Prop :=
  s.len.toNat ≤ s.params.maxPayload.val + 6 ∧ frameWf f = true ∧
    (s.strict = true → fieldsInRange f = true)

section Accepted

variable {s : State} {f : List Byte} (hf : f = Memory.readBytes s.fb 0 s.len.toNat)
include hf

theorem length_inputFrame : f.length = s.len.toNat := by
  rw [hf, Memory.length_readBytes]

theorem byteAt_inputFrame {i : Nat} (hi : i < s.len.toNat) : byteAt f i = Memory.read s.fb i := by
  rw [byteAt, hf, Memory.getD_readBytes _ _ _ _ hi, Nat.zero_add]

/-- An acceptable frame passes every check (R205). -/
theorem outcomeOf_frameDecode_of_acceptable (h : Acceptable s f) :
    outcomeOf .frameDecode s = finish
      { rxSeq := some (byteAt f 0), rxKind := some (byteAt f 1), rxLen := some (be16 f 2),
        rxCsum := some (be16 f 4) } := by
  obtain ⟨hfits, hwf, hfields⟩ := h
  rw [frameWf_iff, length_inputFrame hf] at hwf
  obtain ⟨hlong, hlength, hsum⟩ := hwf
  have hpass : ¬ (s.strict && !fieldsInRange f) = true := by simpa using hfields
  rw [outcomeOf_frameDecode_of_sum hfits hlong hf hlength hsum, if_neg hpass]

theorem exec_frameDecode_of_acceptable (h : Acceptable s f) :
    exec .frameDecode s = .next
      { s with
        rxSeq := byteAt f 0, rxKind := byteAt f 1, rxLen := be16 f 2, rxCsum := be16 f 4
        ok := true, err := .none, done := true, pending := none } := by
  rw [exec_of_outcome (outcomeOf_frameDecode_of_acceptable hf h)]
  rfl

/-- Nothing else is accepted: an outcome is an error or has passed every check (R191). -/
theorem outcomeOf_frameDecode_ok_iff :
    (outcomeOf .frameDecode s).ok = true ↔ Acceptable s f := by
  constructor
  · intro hok
    rw [outcomeOf] at hok
    rcases frameDecodeOutcome_cases s.params s.len s.strict s.fb with
      ⟨c, -, ho⟩ | ⟨hfits, hlong, hlength, hsum, hfields, -⟩
    · rw [ho, raise_ok] at hok
      cases hok
    · rw [inputBytes, ← hf] at hlength hsum hfields
      refine ⟨hfits, ?_, hfields⟩
      rw [frameWf_iff, length_inputFrame hf]
      exact ⟨hlong, hlength, hsum⟩
  · intro h
    rw [outcomeOf_frameDecode_of_acceptable hf h, finish_ok]

/-- Acceptance by arithmetic on the bytes (R191). -/
theorem acceptable_iff :
    Acceptable s f ↔
      s.len.toNat ≤ s.params.maxPayload.val + 6 ∧ 6 ≤ s.len.toNat ∧
      (byteAt f 2).toNat * 256 + (byteAt f 3).toNat = s.len.toNat - 6 ∧
      0 < rawSum f ∧ rawSum f % 0xFFFF = 0 ∧
      (s.strict = true → (byteAt f 0).toNat ≤ 1 ∧ (byteAt f 1).toNat ≤ 3) := by
  have hverifies : onesSum f = 0xFFFF#16 ↔ 0 < rawSum f ∧ rawSum f % 0xFFFF = 0 := by
    rw [← verifies_iff, verifies, decide_eq_true_iff]
  rw [Acceptable, frameWf_iff, length_inputFrame hf, toNat_be16, hverifies, fieldsInRange_iff]
  simp only [and_assoc]

/-- The payload stays in the buffer behind the header (R208). -/
theorem readBytes_payload (h : 6 ≤ s.len.toNat) :
    Memory.readBytes s.fb 6 (s.len.toNat - 6) = f.drop 6 := by
  have hsplit : s.len.toNat = 6 + (s.len.toNat - 6) := by omega
  rw [hf, hsplit, Memory.readBytes_add, List.drop_left' (Memory.length_readBytes _ _ _),
    ← hsplit, Nat.zero_add]

end Accepted

/-- Settles O25: one lemma per check, in their order, and past them `exec_frameDecode_of_acceptable`;
the examples are the latter and LENGTH. -/
theorem frameDecodeResult : Obligations.FrameDecodeResult := by
  refine ⟨decodeCmd_encode .frameDecode, fun s n f hn hf => ?checks, fun s hlen hbytes => ?ack,
    fun s hlen hfits hbytes => ?mismatch⟩
  case checks =>
    subst hn
    refine ⟨exec_frameDecode_of_range, fun hfits => ⟨exec_frameDecode_of_short hfits, fun hlong =>
      ⟨exec_frameDecode_of_length hfits hlong hf, fun hlength =>
        ⟨exec_frameDecode_of_checksum hfits hlong hf hlength, fun hsum => ⟨?field, ?accepted⟩⟩⟩⟩⟩
    case field =>
      rintro ⟨hs, hfields⟩
      exact exec_frameDecode_of_field hfits hlong hf hlength hsum hs
        ((fieldsInRange_eq_false_iff f).mpr hfields)
    case accepted =>
      intro hpass
      refine exec_frameDecode_of_acceptable hf ⟨hfits, ?_, fun hs => ?_⟩
      · rw [frameWf_iff, length_inputFrame hf]
        exact ⟨hlong, hlength, hsum⟩
      · rw [← Bool.not_eq_false, fieldsInRange_eq_false_iff]
        exact fun hfields => hpass ⟨hs, hfields⟩
  case ack =>
    have hlen' : s.len.toNat = 6 := by rw [hlen]; rfl
    have hacceptable : Acceptable s [0x01#8, 0x01#8, 0x00#8, 0x00#8, 0xFE#8, 0xFE#8] :=
      ⟨by omega, by decide, fun _ => by decide⟩
    refine ⟨_, exec_frameDecode_of_acceptable (by rw [hlen', hbytes]) hacceptable, rfl, ?_⟩
    simp only [readReg]
    decide
  case mismatch =>
    have hlen' : s.len.toNat = 7 := by rw [hlen]; rfl
    exact ⟨_, exec_frameDecode_of_length (by omega) (by omega) (by rw [hlen', hbytes])
      (by rw [hlen']; decide), rfl, rfl⟩

/-- Settles O26: OK is `outcomeOf_frameDecode_ok_iff`; the parts are the bytes of the buffer, which
the completion leaves as they were. -/
theorem decodeAcceptsExactlyTheWellFormedFrames :
    Obligations.DecodeAcceptsExactlyTheWellFormedFrames := by
  intro s n f hn hf
  subst hn
  refine ⟨_, exec_eq_complete .frameDecode s, ?ok, ?parts⟩
  case ok => rw [complete_ok, outcomeOf_frameDecode_ok_iff hf, acceptable_iff hf]
  case parts =>
    rw [complete_ok, outcomeOf_frameDecode_ok_iff hf]
    intro h
    obtain ⟨-, hlong, hlength, -⟩ := (acceptable_iff hf).mp h
    have hrxLen : (be16 f 2).toNat = s.len.toNat - 6 := (toNat_be16 f 2).trans hlength
    have hbyte {i : Nat} (hi : i < 6) : byteAt f i = Memory.read s.fb i :=
      byteAt_inputFrame hf (by omega)
    simp only [outcomeOf_frameDecode_of_acceptable hf h, complete_rxSeq, complete_rxKind,
      complete_rxLen, complete_rxCsum, complete_len, complete_fb, finish_effects, applyMem_none,
      Option.getD_some, Option.getD_none]
    refine ⟨hbyte (by omega), hbyte (by omega), by omega, ?csum, ?payload⟩
    case csum => rw [toNat_be16, hbyte (by omega), hbyte (by omega)]
    case payload => rw [hrxLen, readBytes_payload hf hlong]

/-! ### FRAME_ENCODE and then FRAME_DECODE -/

/-- The engine's turn with FRAME_ENCODE pending and its payload within the limit (R195). -/
theorem step_frameEncode {seq : BitVec 1} {kind : BitVec 2} {s : State} {rest : List Move}
    (hp : s.pending = some (encode (.frameEncode seq kind))) (hm : s.moves = .engine :: rest)
    (hle : s.len.toNat ≤ s.params.maxPayload.val) :
    step s = .next
      { s with
        fb := Memory.writeBytes s.fb 0
          (frameHeader (seqByte seq) (kindByte kind) (Memory.readBytes s.fb 6 s.len.toNat))
        len := BitVec.ofNat 16 (6 + s.len.toNat)
        ok := true, err := .none, done := true, pending := none, moves := rest } :=
  (step_pendingCommand hp hm).trans
    (exec_frameEncode_of_le seq kind (s := { s with moves := rest }) hle)

/-- The engine's turn with FRAME_DECODE pending on an acceptable frame (R205). -/
theorem step_frameDecode {s : State} {f : List Byte} {rest : List Move}
    (hp : s.pending = some (encode .frameDecode)) (hm : s.moves = .engine :: rest)
    (hf : f = Memory.readBytes s.fb 0 s.len.toNat) (h : Acceptable s f) :
    step s = .next
      { s with
        rxSeq := byteAt f 0, rxKind := byteAt f 1, rxLen := be16 f 2, rxCsum := be16 f 4
        ok := true, err := .none, done := true, pending := none, moves := rest } :=
  (step_pendingCommand hp hm).trans
    (exec_frameDecode_of_acceptable (s := { s with moves := rest }) hf h)

/-- FRAME_DECODE issued to an idle CFE that holds an acceptable frame, and completed (R205). -/
theorem runSteps_issue_frameDecode {s : State} {f : List Byte} {rest : List Move}
    (hp : s.pending = none)
    (hm : s.moves = .host ⟨true, 4, 0x00#17, encode .frameDecode⟩ :: .engine :: rest)
    (hf : f = Memory.readBytes s.fb 0 s.len.toNat) (h : Acceptable s f) :
    runSteps 2 s = .next
      { s with
        rxSeq := byteAt f 0, rxKind := byteAt f 1, rxLen := be16 f 2, rxCsum := be16 f 4
        ok := true, err := .none, done := true, pending := none, moves := rest
        responses := s.responses ++ [normalResponse 0#32] } := by
  rw [runSteps_succ_of_next 1 (step_issue hp hm)]
  exact runSteps_succ_of_next 0 (step_frameDecode rfl rfl hf h)

/-- The header stored before its payload completes the frame in the buffer (R196). -/
theorem readBytes_writeBytes_frameHeader (sb kb : Byte) {m : Memory} (n : Nat)
    (hm : Memory.wf m = true) :
    Memory.readBytes
        (Memory.writeBytes m 0 (frameHeader sb kb (Memory.readBytes m 6 n))) 0 (6 + n)
      = frame sb kb (Memory.readBytes m 6 n) := by
  have hheader := Memory.readBytes_writeBytes 0 (frameHeader sb kb (Memory.readBytes m 6 n)) hm
  rw [length_frameHeader] at hheader
  rw [Memory.readBytes_add, hheader, Nat.zero_add,
    Memory.readBytes_writeBytes_outside _ (.inr (by rw [length_frameHeader])), frame]

/-- Settles O55: the first step leaves the frame in the buffer (`readBytes_writeBytes_frameHeader`),
acceptable whatever STRICT is, so the FRAME_DECODE issued next reports its fields. -/
theorem encodeThenDecode : Obligations.EncodeThenDecode := by
  intro seq kind s f rest hi hp hm hle hf
  rw [← seqByte_eq, ← kindByte_eq] at hf
  have hmax := s.params.maxPayload.isLt
  have hlen : (BitVec.ofNat 16 (6 + s.len.toNat)).toNat = 6 + s.len.toNat :=
    Nat.mod_eq_of_lt (by omega)
  have hpayload := Memory.length_readBytes s.fb 6 s.len.toNat
  have hwf : frameWf f = true := hf ▸ frameWf_frame _ _ (by omega)
  have hfields : fieldsInRange f = true := hf ▸ fieldsInRange_frame seq kind _
  obtain ⟨t, hstep, hidle, hmoves, hok, hparams, htlen, hread⟩ :
      ∃ t, step s = .next t ∧ t.pending = none ∧
        t.moves = .host ⟨true, 4, 0x00#17, encode .frameDecode⟩ :: .engine :: rest ∧
        t.ok = true ∧ t.params = s.params ∧ t.len.toNat = 6 + s.len.toNat ∧
        f = Memory.readBytes t.fb 0 t.len.toNat := by
    refine ⟨_, step_frameEncode hp hm hle, rfl, rfl, rfl, rfl, hlen, ?_⟩
    rw [hf, hlen, readBytes_writeBytes_frameHeader _ _ _ hi.bufferCanonical]
  have hacceptable : Acceptable t f := ⟨by rw [hparams]; omega, hwf, fun _ => hfields⟩
  have hbyte {i : Nat} (h : i < 6) : byteAt f i = Memory.read t.fb i :=
    byteAt_inputFrame hread (by omega)
  have hrun := (runSteps_succ_of_next 2 hstep).trans
    (runSteps_issue_frameDecode hidle hmoves hread hacceptable)
  refine ⟨t, _, hstep, hrun, hok, hread.symm, hwf, hfields, rfl, rfl, ?seq, ?kind, ?len, ?csum⟩
  case seq =>
    show (byteAt f 0).toNat = seq.toNat
    rw [hf]
    exact toNat_seqByte seq
  case kind =>
    show (byteAt f 1).toNat = kind.toNat
    rw [hf]
    exact toNat_kindByte kind
  case len =>
    show be16 f 2 = s.len
    rw [hf, be16_frame_length, hpayload, BitVec.ofNat_toNat, BitVec.setWidth_eq]
  case csum =>
    show (be16 f 4).toNat = _
    rw [toNat_be16, hbyte (by omega), hbyte (by omega)]

end Sys2Proof.Machine

/-! The errors' statement (spec/60_exceptions.md R245): a failing command has no partial effects. -/

namespace Sys2Proof.Machine

open Sys2Proof

/-- The failures of the commands: a raised error, or the CHECKSUM verdict of CSUM_VERIFY with its two
sums (R245). -/
theorem outcomeOf_of_not_ok {i : Instr} {s : State} (h : (outcomeOf i s).ok = false) :
    (∃ c, c ≠ .none ∧ outcomeOf i s = raise c) ∨
    (i = .csumVerify ∧ ∃ S, outcomeOf i s = finishVerdict (sumEffects S) .checksum) := by
  have of_finish {E : Effects} (ho : outcomeOf i s = finish E) : False := by
    rw [ho, finish_ok] at h
    cases h
  have of_range (ho : outcomeOf i s = raise .range) : ∃ c, c ≠ .none ∧ outcomeOf i s = raise c :=
    ⟨.range, by decide, ho⟩
  cases i with
  | nop => exact (of_finish rfl).elim
  | csumCompute =>
    rcases csumComputeOutcome_cases s.params s.len s.fb with ⟨-, ho⟩ | ⟨-, ho⟩
    · exact .inl (of_range ho)
    · exact (of_finish ho).elim
  | csumVerify =>
    rcases csumVerifyOutcome_cases s.params s.len s.fb with ⟨-, ho⟩ | ⟨-, -, ho⟩ | ⟨-, -, ho⟩
    · exact .inl (of_range ho)
    · exact (of_finish ho).elim
    · exact .inr ⟨rfl, _, ho⟩
  | frameEncode seq kind =>
    rcases frameEncodeOutcome_cases seq kind s.params s.len s.fb with ⟨-, ho⟩ | ⟨-, ho⟩
    · exact .inl (of_range ho)
    · exact (of_finish ho).elim
  | frameDecode =>
    rcases frameDecodeOutcome_cases s.params s.len s.strict s.fb with ho | ⟨-, -, -, -, -, ho⟩
    · exact .inl ho
    · exact (of_finish ho).elim

/-- CSUM_VERIFY of no bytes: the verdict is CHECKSUM, and RESULT becomes that of the sum 0 (R175). -/
theorem exec_csumVerify_of_len_zero {s : State} (h : s.len = 0x0000#16) :
    exec .csumVerify s = .next
      { s with
        sum := 0x0000#16, csum := 0xFFFF#16
        ok := false, err := .checksum, done := true, pending := none } := by
  have hlen : s.len.toNat = 0 := by rw [h]; rfl
  rw [exec_csumVerify_of_le (by omega), hlen, Memory.readBytes_zero]
  rfl

/-- Settles O32: a failure is one of the two of `outcomeOf_of_not_ok`, each completed by its lemma; the
verdict that writes RESULT is that of no bytes, at reset. -/
theorem errorsArePrecise : Obligations.ErrorsArePrecise := by
  refine ⟨fun i s t hexec hok => ?_, fun s => by rw [execIllegal_eq, complete_raise],
    State.reset, _, exec_csumVerify_of_len_zero rfl, rfl, by decide⟩
  rw [exec_eq_complete] at hexec
  cases hexec
  rw [complete_ok] at hok
  rcases outcomeOf_of_not_ok hok with ⟨c, hc, ho⟩ | ⟨hi, S, ho⟩
  · rw [ho, complete_raise]
    exact .inl ⟨rfl, hc⟩
  · rw [ho, finishVerdict, complete_sumEffects]
    exact .inr ⟨hi, rfl, rfl⟩

end Sys2Proof.Machine

/-! The hazards' statement (spec/70_reset_and_hazards.md R283): LEN after FRAME_ENCODE. -/

namespace Sys2Proof.Machine

open Sys2Proof Sys2Proof.Safety

/-- What a successful FRAME_ENCODE leaves for a second one: LEN is the frame's length, the frame lies
at offset 0, and the buffer from offset 6 on is as it was (R195, R283). -/
theorem exec_frameEncode_spec (seq : BitVec 1) (kind : BitVec 2) {s : State}
    (hwf : Memory.wf s.fb = true) (hle : s.len.toNat ≤ s.params.maxPayload.val) :
    ∃ t, exec (.frameEncode seq kind) s = .next t ∧ t.params = s.params ∧ t.ok = true ∧
      t.len.toNat = 6 + s.len.toNat ∧ Memory.wf t.fb = true ∧
      Memory.readBytes t.fb 0 t.len.toNat
        = frame (seqByte seq) (kindByte kind) (Memory.readBytes s.fb 6 s.len.toNat) ∧
      ∀ n, Memory.readBytes t.fb 6 n = Memory.readBytes s.fb 6 n := by
  have hmax := s.params.maxPayload.isLt
  have hlen : (BitVec.ofNat 16 (6 + s.len.toNat)).toNat = 6 + s.len.toNat :=
    Nat.mod_eq_of_lt (by omega)
  refine ⟨_, exec_frameEncode_of_le seq kind hle, rfl, rfl, hlen, Memory.wf_writeBytes _ _ hwf,
    ?frame, fun n => ?payload⟩
  case frame => rw [hlen, readBytes_writeBytes_frameHeader _ _ _ hwf]
  case payload => exact Memory.readBytes_writeBytes_outside _ (.inr (by rw [length_frameHeader]))

/-- FRAME_ENCODE is the only command with a LEN among its effects (R283). -/
theorem outcomeOf_effects_len {i : Instr} (s : State) (h : ∀ seq kind, i ≠ .frameEncode seq kind) :
    (outcomeOf i s).effects.len = none := by
  cases i with
  | nop => rfl
  | csumCompute =>
    rcases csumComputeOutcome_cases s.params s.len s.fb with ⟨-, ho⟩ | ⟨-, ho⟩ <;>
      rw [outcomeOf, ho] <;> rfl
  | csumVerify =>
    rcases csumVerifyOutcome_cases s.params s.len s.fb with ⟨-, ho⟩ | ⟨-, -, ho⟩ | ⟨-, -, ho⟩ <;>
      rw [outcomeOf, ho] <;> rfl
  | frameEncode seq kind => exact absurd rfl (h seq kind)
  | frameDecode =>
    rcases frameDecodeOutcome_cases s.params s.len s.strict s.fb with
      ⟨c, -, ho⟩ | ⟨-, -, -, -, -, ho⟩ <;>
      rw [outcomeOf, ho] <;> rfl

/-- Settles O56: the first FRAME_ENCODE is `exec_frameEncode_spec`; the second is out of range, or the
same lemma again, its payload read from where the first one wrote nothing.  The other commands have no
LEN among their effects. -/
theorem lenReuseHazard : Obligations.LenReuseHazard := by
  refine ⟨fun seq kind s hi hle => ?encodes, fun i s t hne hexec => ?others⟩
  case encodes =>
    rw [← seqByte_eq, ← kindByte_eq]
    obtain ⟨t, hfirst, hparams, -, hlen, hwf, -, hpayload⟩ :=
      exec_frameEncode_spec seq kind hi.bufferCanonical hle
    rcases Nat.lt_or_ge s.params.maxPayload.val (6 + s.len.toNat) with hover | hfits
    · have hrange : t.params.maxPayload.val < t.len.toNat := by rwa [hparams, hlen]
      exact ⟨t, _, hfirst, exec_frameEncode_of_range seq kind hrange, hlen, fun _ => rfl,
        fun hfits => absurd hover (Nat.not_lt.mpr hfits)⟩
    · have hfits' : t.len.toNat ≤ t.params.maxPayload.val := by rwa [hparams, hlen]
      obtain ⟨u, hsecond, -, hok, hlen', -, hframe, -⟩ := exec_frameEncode_spec seq kind hwf hfits'
      rw [hpayload, hlen] at hframe
      exact ⟨t, u, hfirst, hsecond, hlen, fun hover => absurd hover (Nat.not_lt.mpr hfits),
        fun _ => ⟨hok, by omega, hframe⟩⟩
  case others =>
    rw [exec_eq_complete] at hexec
    cases hexec
    rw [complete_len, outcomeOf_effects_len s hne, Option.getD_none]

end Sys2Proof.Machine

/-! What a command's outcome and a step can do, said once: each answer a command can give (R134),
each effect of a host transaction (R70 to R78), each kind of step (R9). The statements below are
case splits on these. -/

namespace Sys2Proof.Machine

open Sys2Proof Sys2Proof.Safety

/-! ### The answers of a command -/

/-- The errors that a command raises, each with what the statements below use of its condition
(R192, R232). -/
inductive Raises (s : State) : Instr → CmdErr → Prop
  | inputRange {i : Instr} (hi : i = .csumCompute ∨ i = .csumVerify ∨ i = .frameDecode)
      (hout : s.params.maxPayload.val + 6 < s.len.toNat) : Raises s i .range
  | payloadRange {seq : BitVec 1} {kind : BitVec 2} (hout : s.params.maxPayload.val < s.len.toNat) :
      Raises s (.frameEncode seq kind) .range
  | short (hfits : s.len.toNat ≤ s.params.maxPayload.val + 6) (hshort : s.len.toNat < 6) :
      Raises s .frameDecode .short
  | length (hfits : s.len.toNat ≤ s.params.maxPayload.val + 6) : Raises s .frameDecode .length
  | checksum (hfits : s.len.toNat ≤ s.params.maxPayload.val + 6) : Raises s .frameDecode .checksum
  | field (hfits : s.len.toNat ≤ s.params.maxPayload.val + 6) (hstrict : s.strict = true) :
      Raises s .frameDecode .field

/-- The form of a command's outcome: an error raised, or the writes of its rule, with the values of
the sums and of the RX registers left open (R140, R170, R175, R195, R205). -/
inductive Answers (s : State) : Instr → CmdOutcome → Prop
  | raised {i : Instr} {c : CmdErr} (h : Raises s i c) : Answers s i (raise c)
  | nop : Answers s .nop (finish {})
  | computed {S : Half} (hfits : s.len.toNat ≤ s.params.maxPayload.val + 6) :
      Answers s .csumCompute (finish (sumEffects S))
  | verified {S : Half} (hfits : s.len.toNat ≤ s.params.maxPayload.val + 6) :
      Answers s .csumVerify (finish (sumEffects S))
  | mismatched {S : Half} (hfits : s.len.toNat ≤ s.params.maxPayload.val + 6) :
      Answers s .csumVerify (finishVerdict (sumEffects S) .checksum)
  | encoded {seq : BitVec 1} {kind : BitVec 2} (hfits : s.len.toNat ≤ s.params.maxPayload.val) :
      Answers s (.frameEncode seq kind) (finish
        { mem := some (headerIndex,
            frameHeader (seqByte seq) (kindByte kind) (payloadBytes s.fb s.len.toNat))
          len := some (BitVec.ofNat 16 (Config.headerBytes + s.len.toNat)) })
  | decoded {sq kd : Byte} {n c : Half} (hfits : s.len.toNat ≤ s.params.maxPayload.val + 6)
      (hn : n.toNat ≤ s.params.maxPayload.val) :
      Answers s .frameDecode (finish
        { rxSeq := some sq, rxKind := some kd, rxLen := some n, rxCsum := some c })

/-- FRAME_DECODE, check by check (R192). -/
theorem answers_frameDecode (s : State) : Answers s .frameDecode (outcomeOf .frameDecode s) := by
  rw [outcomeOf, frameDecodeOutcome]
  dsimp only
  split
  · next hout => exact .raised (.inputRange (.inr (.inr rfl)) ((inputOutOfRange_iff _ _).mp hout))
  · next hin =>
    rw [inputOutOfRange_iff, bufBytes_eq, Nat.not_lt] at hin
    split
    · next hshort => exact .raised (.short hin hshort)
    · split
      · exact .raised (.length hin)
      · next hlength =>
        split
        · exact .raised (.checksum hin)
        · split
          · next hfield =>
            rw [Bool.and_eq_true] at hfield
            exact .raised (.field hin hfield.1)
          · refine .decoded hin ?_
            rw [not_not.mp hlength, Config.headerBytes]
            omega

/-- Every outcome is one of the answers listed (R134). -/
theorem answers_outcomeOf (i : Instr) (s : State) : Answers s i (outcomeOf i s) := by
  cases i with
  | nop => exact .nop
  | csumCompute =>
    rcases csumComputeOutcome_cases s.params s.len s.fb with ⟨hout, ho⟩ | ⟨hfits, ho⟩ <;>
      rw [outcomeOf, ho]
    · exact .raised (.inputRange (.inl rfl) hout)
    · exact .computed hfits
  | csumVerify =>
    rcases csumVerifyOutcome_cases s.params s.len s.fb with
      ⟨hout, ho⟩ | ⟨hfits, -, ho⟩ | ⟨hfits, -, ho⟩ <;> rw [outcomeOf, ho]
    · exact .raised (.inputRange (.inr (.inl rfl)) hout)
    · exact .verified hfits
    · exact .mismatched hfits
  | frameEncode seq kind =>
    rcases frameEncodeOutcome_cases seq kind s.params s.len s.fb with ⟨hout, ho⟩ | ⟨hfits, ho⟩ <;>
      rw [outcomeOf, ho]
    · exact .raised (.payloadRange hout)
    · exact .encoded hfits
  | frameDecode => exact answers_frameDecode s

theorem Raises.ne_none {s : State} {i : Instr} {c : CmdErr} (h : Raises s i c) : c ≠ .none := by
  cases h <;> decide

namespace Answers

variable {s : State} {i : Instr} {o : CmdOutcome}

/-- ERR is 0 exactly when OK is 1 (R134). -/
theorem ok_iff (h : Answers s i o) : o.ok = true ↔ o.err = .none := by
  cases h with
  | raised hc => simp [hc.ne_none]
  | nop | computed | verified | mismatched | encoded | decoded => simp

/-- RESULT is written by the checksum commands alone, SUM with its complement (R170, R175). -/
theorem sums (h : Answers s i o) :
    (o.effects.sum = none ∧ o.effects.csum = none) ∨
    ((i = .csumCompute ∨ i = .csumVerify) ∧
      ∃ S, o.effects.sum = some S ∧ o.effects.csum = some (~~~ S)) := by
  cases h with
  | raised | nop | encoded | decoded => exact .inl ⟨rfl, rfl⟩
  | computed => exact .inr ⟨.inl rfl, _, rfl, rfl⟩
  | verified | mismatched => exact .inr ⟨.inr rfl, _, rfl, rfl⟩

/-- The RX registers are written by an accepting FRAME_DECODE alone, all four together, with a
length that a payload can have (R205, R109). -/
theorem rx (h : Answers s i o) :
    (o.effects.rxSeq = none ∧ o.effects.rxKind = none ∧ o.effects.rxLen = none ∧
      o.effects.rxCsum = none) ∨
    (i = .frameDecode ∧ o.ok = true ∧ ∃ sq kd n c, o.effects.rxSeq = some sq ∧
      o.effects.rxKind = some kd ∧ o.effects.rxLen = some n ∧ o.effects.rxCsum = some c ∧
      n.toNat ≤ s.params.maxPayload.val) := by
  cases h with
  | raised | nop | computed | verified | mismatched | encoded => exact .inl ⟨rfl, rfl, rfl, rfl⟩
  | decoded _ hn => exact .inr ⟨rfl, rfl, _, _, _, _, rfl, rfl, rfl, rfl, hn⟩

/-- The buffer and LEN are written by a successful FRAME_ENCODE alone: six bytes from index 0 on
(R195). -/
theorem stores (h : Answers s i o) :
    (o.effects.mem = none ∧ o.effects.len = none) ∨
    (o.ok = true ∧ (∃ seq kind, i = .frameEncode seq kind) ∧
      ∃ bs : List Byte, bs.length = 6 ∧ o.effects.mem = some (0, bs)) := by
  cases h with
  | raised | nop | computed | verified | mismatched | decoded => exact .inl ⟨rfl, rfl⟩
  | encoded => exact .inr ⟨rfl, ⟨_, _, rfl⟩, _, length_frameHeader _ _ _, rfl⟩

/-- The bytes a command stores keep the buffer's canonical form (R43). -/
theorem wf_applyMem (h : Answers s i o) {m : Memory} (hm : Memory.wf m = true) :
    Memory.wf (applyMem o.effects.mem m) = true := by
  rcases h.stores with ⟨hmem, -⟩ | ⟨-, -, bs, -, hmem⟩ <;> rw [hmem]
  · exact hm
  · exact Memory.wf_writeBytes 0 bs hm

/-- The bytes a command stores lie inside the buffer (R85). -/
theorem below_applyMem (h : Answers s i o) {p : Params} {m : Memory}
    (hm : Memory.below (Config.bufBytes p) m = true) :
    Memory.below (Config.bufBytes p) (applyMem o.effects.mem m) = true := by
  rcases h.stores with ⟨hmem, -⟩ | ⟨-, -, bs, hbs, hmem⟩ <;> rw [hmem]
  · exact hm
  · exact Memory.below_writeBytes bs hm (by rw [bufBytes_eq]; omega)

/-- No byte behind the header is stored to (R85). -/
theorem read_applyMem_of_le (h : Answers s i o) (m : Memory) {a : Nat} (ha : 6 ≤ a) :
    Memory.read (applyMem o.effects.mem m) a = Memory.read m a := by
  rcases h.stores with ⟨hmem, -⟩ | ⟨-, -, bs, hbs, hmem⟩ <;> rw [hmem]
  · rfl
  · exact Memory.read_writeBytes_outside bs (.inr (by omega))

end Answers

/-! ### The completion of a pending word -/

/-- The outcome of a pending word: its command's, or ILLEGAL (R134, R141). -/
def wordOutcome (w : Word) (s : State) : CmdOutcome :=
  match decodeCmd w with
  | .ok i => outcomeOf i s
  | .error _ => raise .illegal

theorem wordOutcome_of_legal {w : Word} {i : Instr} (hd : decodeCmd w = .ok i) (s : State) :
    wordOutcome w s = outcomeOf i s := by
  rw [wordOutcome, hd]

theorem wordOutcome_of_illegal {w : Word} {r : IllegalWord} (hd : decodeCmd w = .error r)
    (s : State) : wordOutcome w s = raise .illegal := by
  rw [wordOutcome, hd]

/-- A pending word is a command's word, with that command's outcome, or is illegal (R104, R134). -/
theorem wordOutcome_cases (w : Word) (s : State) :
    (∃ i, w = encode i ∧ Answers s i (wordOutcome w s)) ∨ wordOutcome w s = raise .illegal := by
  cases hd : decodeCmd w with
  | ok i =>
    rw [wordOutcome_of_legal hd]
    exact .inl ⟨i, (decodeCmd_eq_ok_iff w i).mp hd, answers_outcomeOf i s⟩
  | error r => exact .inr (wordOutcome_of_illegal hd s)

/-- An outcome depends on the operands alone: LEN, STRICT, the buffer and the parameters (R136). -/
theorem outcomeOf_congr (i : Instr) {s s' : State} (hp : s.params = s'.params)
    (hl : s.len = s'.len) (hs : s.strict = s'.strict) (hfb : s.fb = s'.fb) :
    outcomeOf i s = outcomeOf i s' := by
  cases i <;> simp only [outcomeOf, hp, hl, hs, hfb]

theorem wordOutcome_congr (w : Word) {s s' : State} (hp : s.params = s'.params)
    (hl : s.len = s'.len) (hs : s.strict = s'.strict) (hfb : s.fb = s'.fb) :
    wordOutcome w s = wordOutcome w s' := by
  simp only [wordOutcome, outcomeOf_congr _ hp hl hs hfb]

/-- The engine's step completes the pending word (R131, R134). -/
theorem engineStep_of_pending {s : State} {w : Word} (hp : s.pending = some w) :
    engineStep s = .next (complete (wordOutcome w s) s) := by
  cases hd : decodeCmd w with
  | ok i => rw [engineStep_of_legal hp hd, exec_eq_complete, wordOutcome_of_legal hd]
  | error r => rw [engineStep_of_illegal hp hd, execIllegal_eq, wordOutcome_of_illegal hd]

/-- With the schedule used up, the engine takes the step (log 1). -/
theorem step_of_moves_nil {s : State} {w : Word} (hp : s.pending = some w) (hm : s.moves = []) :
    step s = engineStep s := by
  have hbusy : busy s = true := by rw [busy, hp]; rfl
  simp only [step, hm, hbusy, if_true]

/-- A step is the engine's when the schedule says so and when it is used up (R131; log 1). -/
theorem step_of_pending {s : State} {w : Word} (hp : s.pending = some w)
    (hm : s.moves = [] ∨ ∃ rest, s.moves = .engine :: rest) :
    step s = .next { complete (wordOutcome w s) s with moves := s.moves.tail } := by
  rcases hm with hm | ⟨rest, hm⟩
  · have hnil : s.moves.tail = (complete (wordOutcome w s) s).moves := by
      rw [complete_moves, hm, List.tail_nil]
    rw [hnil, step_of_moves_nil hp hm, engineStep_of_pending hp]
  · rw [step_engine hm, hm, List.tail_cons,
      engineStep_of_pending (s := { s with moves := rest }) hp]
    rfl

/-! ### The effect of a host transaction -/

/-- A guarded write does not look at the schedule if the write itself does not (log 1). -/
theorem unlessPending_moves {f : State → State} {s : State} {rest : List Move}
    (hf : f { s with moves := rest } = { f s with moves := rest }) :
    unlessPending f { s with moves := rest } = { unlessPending f s with moves := rest } := by
  obtain hp | ⟨w, hp⟩ := Option.eq_none_or_eq_some s.pending
  · rw [unlessPending_idle f hp, ← hf]
    exact unlessPending_idle (s := { s with moves := rest }) f hp
  · rw [unlessPending_busy f hp]
    exact unlessPending_busy (s := { s with moves := rest }) f hp

theorem writeReg_moves (r : Reg) (w : Word) (s : State) (rest : List Move) :
    writeReg r w { s with moves := rest } = { writeReg r w s with moves := rest } := by
  cases r with
  | cmd => exact unlessPending_moves (f := fun s => { s with pending := some w, done := false }) rfl
  | ctrl => exact unlessPending_moves (f := writeCtrl w) rfl
  | len => exact unlessPending_moves (f := writeLen w) rfl
  | status | result | rxHdr | rxCsum | cfg => rfl

/-- A transaction does not look at the schedule (log 1). -/
theorem busTransaction_moves (t : Txn) (s : State) (rest : List Move) :
    busTransaction t { s with moves := rest }
      = ({ (busTransaction t s).1 with moves := rest }, (busTransaction t s).2) := by
  by_cases h : LegalRegisterAccess t ∨ LegalBufferAccess s.params t
  · rcases h with hreg | hbuf
    · simp only [busTransaction_of_legalRegister _ hreg, writeReg_moves, readReg_moves]
      cases t.we <;> rfl
    · rw [busTransaction_of_legalBuffer hbuf,
        busTransaction_of_legalBuffer (s := { s with moves := rest }) hbuf,
        unlessPending_moves (f := writeByte _ t.wdata) rfl]
      cases t.we <;> rfl
  · rw [busTransaction_of_illegal h, busTransaction_of_illegal (s := { s with moves := rest }) h]

/-- A host step, its transaction made in the state before it (R70). -/
theorem step_host_eq {s : State} {t : Txn} {rest : List Move} (hm : s.moves = .host t :: rest) :
    step s = .next { (busTransaction t s).1 with
      moves := rest, responses := s.responses ++ [(busTransaction t s).2] } := by
  rw [step_of_busTransaction hm (busTransaction_moves t s rest)]
  simp only [busTransaction_responses]

/-- What a transaction leaves behind: the state as it was (a read, an error response, a write to a
read-only register), or the effect of a legal write, applied or dropped (R36, R78, R130). -/
inductive HostEffect (s : State) : Txn → State → Prop
  | unchanged {x : Txn} : HostEffect s x s
  | status {w : Word} : HostEffect s ⟨true, 4, 0x04#17, w⟩ (clearStatus w s)
  | dropped {x : Txn} (hp : s.pending ≠ none) (hx : DroppableWrite s.params x) :
      HostEffect s x (dropWrite s)
  | issued {w : Word} (hp : s.pending = none) :
      HostEffect s ⟨true, 4, 0x00#17, w⟩ { s with pending := some w, done := false }
  | ctrl {w : Word} (hp : s.pending = none) : HostEffect s ⟨true, 4, 0x08#17, w⟩ (writeCtrl w s)
  | len {w : Word} (hp : s.pending = none) : HostEffect s ⟨true, 4, 0x0C#17, w⟩ (writeLen w s)
  | byte {x : Txn} {i : Nat} (hp : s.pending = none) (hwe : x.we = true)
      (hx : LegalBufferAccess s.params x) (hoff : x.off.toNat = 0x10000 + i) :
      HostEffect s x (writeByte i x.wdata s)

/-- A guarded write is applied or dropped (R78). -/
theorem hostEffect_unlessPending {s : State} {x : Txn} {f : State → State}
    (hx : DroppableWrite s.params x) (hf : s.pending = none → HostEffect s x (f s)) :
    HostEffect s x (unlessPending f s) := by
  rcases unlessPending_cases f s with ⟨hp, h⟩ | ⟨hp, h⟩ <;> rw [h]
  · exact hf hp
  · exact .dropped (Option.isSome_iff_ne_none.mp hp) hx

/-- A legal write to CMD, CTRL or LEN is one that can be dropped (R78). -/
theorem droppable_register (p : Params) (w : Word) {off : Offset}
    (h : off = 0x00#17 ∨ off = 0x08#17 ∨ off = 0x0C#17) : DroppableWrite p ⟨true, 4, off, w⟩ := by
  have hoff : off.toNat < 0x20 ∧ off.toNat % 4 = 0 := by rcases h with rfl | rfl | rfl <;> decide
  exact ⟨rfl, .inl ⟨⟨hoff.1, rfl, hoff.2⟩, h⟩⟩

/-- Every transaction has one of these effects (R70 to R78). -/
theorem hostEffect_busTransaction (x : Txn) (s : State) :
    HostEffect s x (busTransaction x s).1 := by
  rcases busTransaction_cases x s with h | ⟨hx, h⟩ | ⟨hx, h⟩ | ⟨hx, h⟩ | ⟨hx, h⟩ |
    ⟨i, hwe, hsize, hoff, hi, h⟩ <;> rw [h]
  · exact .unchanged
  · rw [hx]
    exact hostEffect_unlessPending (droppable_register _ _ (by decide)) .issued
  · rw [hx]
    exact .status
  · rw [hx]
    exact hostEffect_unlessPending (droppable_register _ _ (by decide)) .ctrl
  · rw [hx]
    exact hostEffect_unlessPending (droppable_register _ _ (by decide)) .len
  · rw [bufBytes_eq] at hi
    have hlegal : LegalBufferAccess s.params x := ⟨by omega, by omega, hsize⟩
    exact hostEffect_unlessPending ⟨hwe, .inr hlegal⟩ fun hp => .byte hp hwe hlegal hoff

/-! ### The kinds of step -/

/-- What a step that gives a next state is (R9): idle, a completion, a transaction with its response
logged, or a reset. -/
inductive StepEffect (s : State) : State → Prop
  | idle (hm : s.moves = []) (hp : s.pending = none) : StepEffect s s
  | completed {w : Word} (hp : s.pending = some w)
      (hm : s.moves = [] ∨ ∃ rest, s.moves = .engine :: rest) :
      StepEffect s { complete (wordOutcome w s) s with moves := s.moves.tail }
  | host {x : Txn} {rest : List Move} {u : State} (hm : s.moves = .host x :: rest)
      (hu : HostEffect s x u) : StepEffect s
        { u with moves := rest, responses := s.responses ++ [(busTransaction x s).2] }
  | reset {rest : List Move} (hm : s.moves = .reset :: rest) :
      StepEffect s (resetStep { s with moves := rest })

theorem stepEffect_of_pending {s t : State} {w : Word} (hp : s.pending = some w)
    (hm : s.moves = [] ∨ ∃ rest, s.moves = .engine :: rest) (h : step s = .next t) :
    StepEffect s t := by
  rw [step_of_pending hp hm] at h
  injection h with h
  exact h ▸ .completed hp hm

/-- Every step that gives a next state is one of these. -/
theorem stepEffect_of_step {s t : State} (h : step s = .next t) : StepEffect s t := by
  rcases step_cases h with ⟨hm, hp, rfl⟩ | ⟨hm, he⟩ | ⟨x, rest, hm, -⟩ | ⟨rest, hm, he⟩ |
    ⟨rest, hm, rfl⟩
  · exact .idle hm hp
  · obtain ⟨w, hp, -⟩ := engineStep_cases he
    exact stepEffect_of_pending hp (.inl hm) h
  · rw [step_host_eq hm] at h
    injection h with h
    exact h ▸ .host hm (hostEffect_busTransaction x s)
  · obtain ⟨w, hp, -⟩ := engineStep_cases he
    exact stepEffect_of_pending hp (.inr ⟨rest, hm⟩) h
  · exact .reset hm

end Sys2Proof.Machine

/-! The invariant's statements: it holds at power-on (R48), and every step keeps it. -/

namespace Sys2Proof.Machine

open Sys2Proof Sys2Proof.Safety

/-- The invariant is about R32's fields, not about the schedule or the responses. -/
theorem inv_withRun {s : State} (hi : Inv s) (ms : List Move) (rs : List BusResponse) :
    Inv { s with moves := ms, responses := rs } :=
  ⟨hi.bufferCanonical, hi.bufferInRange, hi.doneClearWhilePending, hi.noErrorWhenOk,
    hi.verdictWhenDone, hi.resultComplement, hi.rxLenBounded⟩

/-- A power-on with any buffer that fits meets the invariant, whatever the schedule (R48). -/
theorem inv_powerOn {p : Params} {fb0 : Memory} (hwf : Memory.wf fb0 = true)
    (hbelow : Memory.below (Config.bufBytes p) fb0 = true) : Inv (State.powerOn p fb0) where
  bufferCanonical := hwf
  bufferInRange := hbelow
  doneClearWhilePending _ := rfl
  noErrorWhenOk _ := rfl
  verdictWhenDone h := absurd h Bool.false_ne_true
  resultComplement := .inr ⟨rfl, rfl⟩
  rxLenBounded := Nat.zero_le _

/-- A reset is a power-on that keeps the buffer (R270). -/
theorem inv_resetStep {s : State} (hi : Inv s) : Inv (resetStep s) :=
  inv_withRun (inv_powerOn hi.bufferCanonical hi.bufferInRange) s.moves s.responses

/-- Completing a command keeps the invariant, by what each answer may write (R134). -/
theorem inv_complete {s : State} {i : Instr} {o : CmdOutcome} (hi : Inv s) (h : Answers s i o) :
    Inv (complete o s) where
  bufferCanonical := h.wf_applyMem hi.bufferCanonical
  bufferInRange := h.below_applyMem hi.bufferInRange
  doneClearWhilePending hp := absurd hp Bool.false_ne_true
  noErrorWhenOk := h.ok_iff.mp
  verdictWhenDone _ := h.ok_iff
  resultComplement := by
    rcases h.sums with ⟨hsum, hcsum⟩ | ⟨-, S, hsum, hcsum⟩
    · rw [complete_csum, complete_sum, hsum, hcsum]
      exact hi.resultComplement
    · rw [complete_csum, complete_sum, hsum, hcsum]
      exact .inl rfl
  rxLenBounded := by
    rcases h.rx with ⟨-, -, hlen, -⟩ | ⟨-, -, -, -, n, -, -, -, hlen, -, hn⟩
    · rw [complete_rxLen, hlen]
      exact hi.rxLenBounded
    · rw [complete_rxLen, hlen]
      exact hn

/-- Failing an illegal word writes the flags of its completion only (R141). -/
theorem inv_complete_illegal {s : State} (hi : Inv s) : Inv (complete (raise .illegal) s) where
  bufferCanonical := hi.bufferCanonical
  bufferInRange := hi.bufferInRange
  doneClearWhilePending hp := absurd hp Bool.false_ne_true
  noErrorWhenOk h := absurd h Bool.false_ne_true
  verdictWhenDone _ := by simp
  resultComplement := hi.resultComplement
  rxLenBounded := hi.rxLenBounded

/-- A legal buffer access names a byte of the buffer (R72). -/
theorem index_lt_of_legalBuffer {p : Params} {x : Txn} {i : Nat} (hx : LegalBufferAccess p x)
    (hoff : x.off.toNat = 0x10000 + i) : i < Config.bufBytes p := by
  obtain ⟨-, hhi, -⟩ := hx
  rw [bufBytes_eq]
  omega

/-- A transaction keeps the invariant: DONE only falls, and a byte written lies in the buffer. -/
theorem inv_hostEffect {s u : State} {x : Txn} (hi : Inv s) (h : HostEffect s x u) : Inv u := by
  cases h with
  | unchanged => exact hi
  | status =>
    refine { hi with doneClearWhilePending := fun hp => ?_, verdictWhenDone := fun hd => ?_ }
    · simp [hi.doneClearWhilePending hp]
    · simp only [clearStatus_done, Bool.if_false_left, Bool.and_eq_true] at hd
      exact hi.verdictWhenDone hd.2
  | dropped => exact { hi with }
  | issued => exact { hi with
      doneClearWhilePending := fun _ => rfl
      verdictWhenDone := fun hd => absurd hd Bool.false_ne_true }
  | ctrl => exact { hi with }
  | len => exact { hi with }
  | byte hp hwe hx hoff =>
    have hin := index_lt_of_legalBuffer hx hoff
    exact { hi with
      bufferCanonical := Memory.wf_write _ _ hi.bufferCanonical
      bufferInRange := Memory.below_write _ hi.bufferInRange hin }

/-- Settles O41, by the kind of step. -/
theorem everyStepKeepsInv : Obligations.EveryStepKeepsInv := by
  intro s t hi hstep
  cases stepEffect_of_step hstep with
  | idle => exact hi
  | @completed w hp hm =>
    refine inv_withRun ?_ _ s.responses
    rcases wordOutcome_cases w s with ⟨i, -, ho⟩ | ho
    · exact inv_complete hi ho
    · rw [ho]
      exact inv_complete_illegal hi
  | host hm hu => exact inv_withRun (inv_hostEffect hi hu) _ _
  | @reset rest hm => exact inv_resetStep (inv_withRun hi rest s.responses)

/-- Settles O40: `inv_powerOn`, for the reference parameter's zero buffer too. -/
theorem invHoldsAtPowerOn : Obligations.InvHoldsAtPowerOn :=
  ⟨fun _ _ => inv_powerOn, inv_powerOn rfl rfl⟩

end Sys2Proof.Machine

/-! The statements about the command words (R104) and about runs: the engine's step (R131, R134),
the pending command (R46, R80, R132, R285), the parameters (R6) and reset (R270). -/

namespace Sys2Proof.Machine

open Sys2Proof Sys2Proof.Safety

/-! ### The words of the command table -/

/-- Settles O2: each word is its command's word. -/
theorem tableWordsDecode : Obligations.TableWordsDecode :=
  ⟨decodeCmd_encode .nop, decodeCmd_encode .csumCompute, decodeCmd_encode .csumVerify,
    decodeCmd_encode (.frameEncode 0 0), decodeCmd_encode (.frameEncode 1 1),
    decodeCmd_encode (.frameEncode 0 2), decodeCmd_encode (.frameEncode 1 3),
    decodeCmd_encode .frameDecode⟩

/-! ### The engine's step -/

theorem step_idle {s : State} (hp : s.pending = none) (hm : s.moves = []) : step s = .next s := by
  have hbusy : busy s = false := by rw [busy, hp]; rfl
  simp [step, hm, hbusy]

/-- Settles O6: the engine's step with a legal word pending is `engineStep_of_legal`. -/
theorem engineStepRunsTheDecodedCommand : Obligations.EngineStepRunsTheDecodedCommand := by
  intro s w i hp hd
  refine ⟨fun rest hm => ?turn, fun hm => ?used⟩
  case turn => rw [step_engine hm, engineStep_of_legal (s := { s with moves := rest }) hp hd]
  case used => rw [step_of_moves_nil hp hm, engineStep_of_legal hp hd]

/-- A word of 32 bits is read whole (R100). -/
theorem decodeTableWord_toNat (w : Word) : decodeTableWord 32 w.toNat = (decodeCmd w).toOption := by
  rw [decodeTableWord, if_pos (Nat.le_refl 32), Nat.mod_eq_of_lt w.isLt, BitVec.ofNat_toNat,
    BitVec.setWidth_eq]

theorem withFetchWord_toNat (s : State) (w : Word) :
    s.withFetchWord 32 w.toNat = aboutToComplete w s := by
  rw [State.withFetchWord, Nat.mod_eq_of_lt w.isLt, BitVec.ofNat_toNat, BitVec.setWidth_eq]

/-- Settles O7: the placed word is pending and the engine's turn comes next. -/
theorem fetchedWordRunsNext : Obligations.FetchedWordRunsNext := by
  intro s w i h
  have hd : decodeCmd w = .ok i := by
    rw [decodeTableWord_toNat] at h
    cases hd : decodeCmd w with
    | ok j => rw [hd] at h; exact congrArg _ (Option.some.inj h)
    | error r => rw [hd] at h; cases h
  rw [withFetchWord_toNat, step_engine (s := aboutToComplete w s) rfl]
  exact engineStep_of_legal rfl hd

/-- Settles O8: with a word pending the step is its completion (`step_of_pending`), and with none it
is refused. -/
theorem engineStepNeedsAPendingCommand : Obligations.EngineStepNeedsAPendingCommand := by
  intro s
  refine ⟨fun rest hm => ?_, fun hm hp => step_idle hp hm⟩
  have refused (hp : s.pending = none) : step s = .refused .engineStepNotEnabled := by
    rw [step_engine hm, engineStep_idle (s := { s with moves := rest }) hp]
  refine ⟨⟨fun ⟨t, ht⟩ hp => ?_, fun hp => ?_⟩, refused⟩
  · rw [refused hp] at ht
    cases ht
  · obtain ⟨w, hw⟩ := Option.ne_none_iff_exists'.mp hp
    exact ⟨_, step_of_pending hw (.inr ⟨rest, hm⟩)⟩

/-! ### The pending command -/

/-- A transaction leaves the pending word as it is, but for an issue (R46, R130). -/
theorem hostEffect_pending {s u : State} {x : Txn} (h : HostEffect s x u) :
    u.pending = s.pending ∨
    (s.pending = none ∧ ∃ w, x = ⟨true, 4, 0x00#17, w⟩ ∧
      u = { s with pending := some w, done := false }) := by
  cases h with
  | unchanged | status | dropped | ctrl | len | byte => exact .inl rfl
  | issued hp => exact .inr ⟨hp, _, rfl, rfl⟩

/-- Settles O10, by the kind of step. -/
theorem pendingCommandIsNeverReplaced : Obligations.PendingCommandIsNeverReplaced := by
  intro s t hstep
  cases stepEffect_of_step hstep with
  | idle hm hp => simp [hp]
  | completed hp hm =>
    refine ⟨fun _ _ => .inr (.inl ⟨rfl, rfl, fun x rest => ?_⟩), fun _ hidle => ?_⟩
    · rcases hm with hm | ⟨_, hm⟩ <;> simp [hm]
    · simp [hp] at hidle
  | @host x rest u hm hu =>
    rcases hostEffect_pending hu with hkeep | ⟨hp, w, rfl, rfl⟩
    · exact ⟨fun w hw => .inl (hkeep.trans hw),
        fun w hidle hw => by simp [hkeep.trans hidle] at hw⟩
    · refine ⟨fun w hw => by simp [hp] at hw, fun v _ hv => ⟨rfl, rest, ?_⟩⟩
      rw [hm, Option.some.inj hv]
  | reset hm => exact ⟨fun _ _ => .inr (.inr ⟨rfl, _, hm⟩), fun w _ hw => by cases hw⟩

/-- A pending word stays through a host step (R46). -/
theorem step_host_of_pending {s : State} {w : Word} {x : Txn} {rest : List Move}
    (hp : s.pending = some w) (hm : s.moves = .host x :: rest) :
    ∃ t, step s = .next t ∧ t.pending = some w ∧ t.moves = rest := by
  refine ⟨_, step_host_eq hm, ?_, rfl⟩
  rcases hostEffect_pending (hostEffect_busTransaction x s) with hkeep | ⟨hidle, -⟩
  · exact hkeep.trans hp
  · simp [hp] at hidle

/-- A pending command is gone once the schedule has been gone through, and then the engine's step
taken; only a reset takes it away without DONE (R285; log 1). -/
theorem pending_eventually_none {s : State} {w : Word} (hp : s.pending = some w) :
    ∃ k t, k ≤ s.moves.length + 1 ∧ runSteps k s = .next t ∧ t.pending = none ∧
      (Move.reset ∉ s.moves → t.done = true) := by
  induction hms : s.moves generalizing s with
  | nil => exact ⟨1, _, by simp, runSteps_succ_of_next 0 (step_of_pending hp (.inl hms)), rfl,
      fun _ => rfl⟩
  | cons m rest ih =>
    cases m with
    | host x =>
      obtain ⟨u, hstep, hpu, hmu⟩ := step_host_of_pending hp hms
      obtain ⟨k, t, hk, hrun, hnone, hdone⟩ := ih hpu hmu
      refine ⟨k + 1, t, by simpa using hk, (runSteps_succ_of_next k hstep).trans hrun, hnone, ?_⟩
      exact fun hr => hdone fun h => hr (List.mem_cons_of_mem _ h)
    | engine => exact ⟨1, _, by simp,
        runSteps_succ_of_next 0 (step_of_pending hp (.inr ⟨rest, hms⟩)), rfl, fun _ => rfl⟩
    | reset => exact ⟨1, _, by simp, runSteps_succ_of_next 0 (step_reset hms), rfl,
        fun hr => absurd List.mem_cons_self hr⟩

/-- Settles O9: `pending_eventually_none`. -/
theorem pendingCommandEventuallyCompletes : Obligations.PendingCommandEventuallyCompletes := by
  intro s w hp
  obtain ⟨k, t, hk, hrun, hnone, hdone⟩ := pending_eventually_none hp
  exact ⟨⟨k, t, hk, hrun, hnone⟩, fun hr => ⟨k, t, hk, hrun, hnone, hdone hr⟩⟩

/-! ### What the host can do before the completion -/

/-- While a command is pending a transaction changes DONE and WERR at most (R36, R78). -/
theorem hostEffect_of_pending {s u : State} {x : Txn} (hp : s.pending ≠ none)
    (h : HostEffect s x u) : ∃ d e, u = { s with done := d, werr := e } := by
  cases h with
  | unchanged | status | dropped => exact ⟨_, _, rfl⟩
  | issued hidle | ctrl hidle | len hidle | byte hidle => exact absurd hidle hp

/-- A run in two parts. -/
theorem runSteps_add {s t : State} {j : Nat} (k : Nat) (h : runSteps j s = .next t) :
    runSteps (j + k) s = runSteps k t := by
  induction j generalizing s with
  | zero =>
    injection h with h
    rw [h, Nat.zero_add]
  | succ j ih =>
    cases hstep : step s with
    | next u =>
      rw [runSteps_succ_of_next j hstep] at h
      rw [Nat.succ_add, runSteps_succ_of_next (j + k) hstep, ih h]
    | fault r => simp [runSteps, hstep] at h
    | refused r => simp [runSteps, hstep] at h

/-- Any number of transactions changes no more than that (R46, R132). -/
theorem runSteps_hosts {s : State} {ts : List Txn} {rest : List Move} (hp : s.pending ≠ none)
    (hm : s.moves = ts.map Move.host ++ rest) :
    ∃ d e rs, runSteps ts.length s
      = .next { s with done := d, werr := e, moves := rest, responses := rs } := by
  induction ts generalizing s with
  | nil => exact ⟨s.done, s.werr, s.responses, by rw [← show s.moves = rest from hm]; rfl⟩
  | cons x ts ih =>
    obtain ⟨d, e, hu⟩ := hostEffect_of_pending hp (hostEffect_busTransaction x s)
    have hstep := step_host_eq (s := s) (t := x) (rest := ts.map Move.host ++ rest) hm
    rw [hu] at hstep
    rw [List.length_cons, runSteps_succ_of_next _ hstep]
    exact ih hp rfl

/-- The engine's turn after them completes the word with the outcome it had at once (R132). -/
theorem runSteps_hosts_engine {s : State} {w : Word} {ts : List Txn} {rest : List Move}
    (hp : s.pending = some w) (hm : s.moves = ts.map Move.host ++ .engine :: rest) :
    ∃ e rs, runSteps (ts.length + 1) s = .next
      { complete (wordOutcome w s) s with werr := e, moves := rest, responses := rs } := by
  obtain ⟨d, e, rs, hrun⟩ := runSteps_hosts (by rw [hp]; exact Option.some_ne_none w) hm
  refine ⟨e, rs, (runSteps_add 1 hrun).trans ((runSteps_succ_of_next 0
    (step_of_pending (by exact hp) (.inr ⟨rest, rfl⟩))).trans ?_)⟩
  rw [wordOutcome_congr w (s' := s) rfl rfl rfl rfl]
  rfl

/-- Settles O42: `runSteps_hosts_engine`, for the legal and for the illegal word. -/
theorem hostCannotChangeAPendingCommand : Obligations.HostCannotChangeAPendingCommand := by
  intro s w ts rest hp hm
  obtain ⟨e, rs, hrun⟩ := runSteps_hosts_engine hp hm
  refine ⟨fun i hd => ?legal, fun r hd => ?illegal⟩
  case legal =>
    rw [wordOutcome_of_legal hd] at hrun
    exact ⟨_, _, exec_eq_complete i s, hrun, rfl⟩
  case illegal =>
    rw [wordOutcome_of_illegal hd, complete_raise] at hrun
    exact ⟨_, hrun, rfl⟩

/-! ### The parameters, and reset -/

theorem hostEffect_params {s u : State} {x : Txn} (h : HostEffect s x u) : u.params = s.params := by
  cases h <;> rfl

/-- Settles O37: no kind of step writes the parameters, and CFG is read off them. -/
theorem parametersNeverChange : Obligations.ParametersNeverChange := by
  intro s t hstep
  have hparams : t.params = s.params := by
    cases stepEffect_of_step hstep with
    | idle | completed | reset => rfl
    | host _ hu => exact (hostEffect_params hu :)
  exact ⟨hparams, congrArg cfgWord hparams⟩

/-- Settles O38: the step is `resetStep`, which does not look at what it clears; an engine turn
after it has nothing to complete. -/
theorem resetStepClearsAllButTheBuffer : Obligations.ResetStepClearsAllButTheBuffer := by
  intro s rest hm
  have hstep := step_reset hm
  refine ⟨hstep, fun more hrest => ?twice, fun more hrest => ?engine⟩
  case twice =>
    have htwo : runSteps 2 s = _ :=
      (runSteps_succ_of_next 1 hstep).trans (runSteps_succ_of_next 0 (step_reset hrest))
    exact htwo.trans (step_reset (s := { s with moves := .reset :: more }) rfl).symm
  case engine =>
    have hrefused : step (resetStep { s with moves := rest }) = .refused .engineStepNotEnabled := by
      rw [step_engine (s := resetStep { s with moves := rest }) hrest]
      exact engineStep_idle rfl
    rw [runSteps_succ_of_next 1 hstep, runSteps, hrefused]

end Sys2Proof.Machine

/-! The observation's statement (spec/70_reset_and_hazards.md R291). -/

namespace Sys2Proof.Machine

open Sys2Proof Sys2Proof.Safety

/-- The transaction of a schedule entry, if it is one. -/
def Move.txn? : Move → Option Txn
  | .host x => some x
  | .engine => none
  | .reset => none

/-- The responses in `rs` that answer a read of `ts`, in order. -/
def readResponses (ts : List Txn) (rs : List BusResponse) : List BusResponse :=
  (ts.zip rs).filterMap fun e => if e.1.we then none else some e.2

theorem readResponses_cons (x : Txn) (r : BusResponse) (ts : List Txn) (rs : List BusResponse) :
    readResponses (x :: ts) (r :: rs) = (if x.we then [] else [r]) ++ readResponses ts rs := by
  cases hwe : x.we <;> simp [readResponses, hwe]

/-- The run has ended: nothing is pending and no transaction is left (R291). -/
theorem runEnded_iff (s : State) :
    runEnded s = true ↔ s.pending = none ∧ ∀ x, Move.host x ∉ s.moves := by
  have hbusy : busy s = false ↔ s.pending = none := by
    rw [busy, Option.isSome_eq_false_iff, Option.isNone_iff_eq_none]
  rw [runEnded, Bool.and_eq_true, Bool.not_eq_true', Bool.not_eq_true', List.any_eq_false, hbusy]
  refine and_congr_right fun _ => ⟨fun h x hx => by simpa using h _ hx, fun h m hm => ?_⟩
  cases m with
  | host x => exact absurd hm (h x)
  | engine | reset => exact Bool.false_ne_true

theorem observeWithin_of_ended {s : State} (fuel : Nat) (h : runEnded s = true) :
    observeWithin fuel s = some ⟨[], archState s⟩ := by
  cases fuel <;> simp [observeWithin, h]

/-- An observation goes on past a step, with what the step returned to a read put first. -/
theorem observeWithin_of_step {s t : State} {o : Observation} {fuel : Nat}
    (h : runEnded s = false) (hstep : step s = .next t) (ho : observeWithin fuel t = some o) :
    observeWithin (fuel + 1) s = some { o with reads := readReturned s ++ o.reads } := by
  simp [observeWithin, h, hstep, ho]

/-- There is no other way to an observation. -/
theorem observeWithin_cases {s : State} {o : Observation} {fuel : Nat}
    (h : observeWithin fuel s = some o) :
    (runEnded s = true ∧ o = ⟨[], archState s⟩) ∨
    ∃ fuel' t o', fuel = fuel' + 1 ∧ step s = .next t ∧ observeWithin fuel' t = some o' ∧
      o = { o' with reads := readReturned s ++ o'.reads } := by
  by_cases hended : runEnded s = true
  · rw [observeWithin_of_ended fuel hended] at h
    exact .inl ⟨hended, (Option.some.inj h).symm⟩
  · cases fuel with
    | zero => simp [observeWithin, hended] at h
    | succ fuel =>
      rw [observeWithin, if_neg hended] at h
      split at h
      · next t hstep =>
        split at h
        · next o' ho => exact .inr ⟨fuel, t, o', rfl, hstep, ho, (Option.some.inj h).symm⟩
        · cases h
      · cases h
      · cases h

/-- What a step adds to the responses, and what its read, if it is one, contributes to the reads of
the schedule it is taken from. -/
theorem step_responses {s t : State} (hstep : step s = .next t) :
    ∃ rs, t.responses = s.responses ++ rs ∧ ∀ k rs',
      readReturned s ++ readResponses ((t.moves.take k).filterMap Move.txn?) rs'
        = readResponses ((s.moves.take (k + 1)).filterMap Move.txn?) (rs ++ rs') := by
  cases stepEffect_of_step hstep with
  | idle hm hp => exact ⟨[], by simp, fun k rs' => by simp [readReturned, hm]⟩
  | completed hp hm =>
    refine ⟨[], (List.append_nil _).symm, fun k rs' => ?_⟩
    rcases hm with hm | ⟨rest, hm⟩ <;> simp [readReturned, hm, Move.txn?, List.filterMap_cons]
  | @host x rest u hm hu =>
    refine ⟨_, rfl, fun k rs' => ?_⟩
    simp [readReturned, hm, Move.txn?, readResponses_cons]
  | reset hm =>
    exact ⟨[], by simp, fun k rs' => by simp [readReturned, hm, Move.txn?, List.filterMap_cons]⟩

/-- An observed run reaches its end, and its reads are the responses to the reads it made (R291). -/
theorem observeWithin_spec {s : State} {o : Observation} {fuel : Nat}
    (h : observeWithin fuel s = some o) :
    ∃ k t rs, runSteps k s = .next t ∧ runEnded t = true ∧ o.final = archState t ∧
      t.responses = s.responses ++ rs ∧
      o.reads = readResponses ((s.moves.take k).filterMap Move.txn?) rs := by
  induction fuel generalizing s o with
  | zero =>
    rcases observeWithin_cases h with ⟨hended, rfl⟩ | ⟨_, _, _, hfuel, -⟩
    · exact ⟨0, s, [], rfl, hended, rfl, (List.append_nil _).symm, rfl⟩
    · cases hfuel
  | succ fuel ih =>
    rcases observeWithin_cases h with ⟨hended, rfl⟩ | ⟨_, u, o', hfuel, hstep, ho', rfl⟩
    · exact ⟨0, s, [], rfl, hended, rfl, (List.append_nil _).symm, rfl⟩
    · cases hfuel
      obtain ⟨k, t, rs', hrun, hended, hfinal, hresp, hreads⟩ := ih ho'
      obtain ⟨rs, hu, hfirst⟩ := step_responses hstep
      refine ⟨k + 1, t, rs ++ rs', (runSteps_succ_of_next k hstep).trans hrun, hended, hfinal,
        ?_, ?_⟩
      · rw [hresp, hu, List.append_assoc]
      · rw [← hfirst, ← hreads]

/-- A schedule of transactions alone is observed to its end, one entry per read (R291; log 1). -/
theorem observeWithin_hosts {s : State} {ts : List Txn} (hm : s.moves = ts.map Move.host) :
    ∃ o, observeWithin (ts.length + 1) s = some o ∧
      o.reads.length = (ts.filter fun x => !x.we).length := by
  induction ts generalizing s with
  | nil =>
    have hnohost : ∀ t : State, t.moves = [] → t.pending = none → runEnded t = true :=
      fun t ht hp => (runEnded_iff t).mpr ⟨hp, by simp [ht]⟩
    obtain hp | ⟨w, hp⟩ := Option.eq_none_or_eq_some s.pending
    · exact ⟨_, observeWithin_of_ended 1 (hnohost s hm hp), rfl⟩
    · have hrunning : runEnded s = false := by
        rw [Bool.eq_false_iff, ne_eq, runEnded_iff, hp]
        simp
      have hstep := step_of_pending hp (.inl hm)
      refine ⟨_, observeWithin_of_step hrunning hstep
        (observeWithin_of_ended 0 (hnohost _ (by rw [hm]; rfl) rfl)), ?_⟩
      simp [readReturned, hm]
  | cons x ts ih =>
    have hrunning : runEnded s = false := by
      rw [Bool.eq_false_iff, ne_eq, runEnded_iff, hm]
      exact fun h => h.2 x List.mem_cons_self
    have hstep := step_host_eq (s := s) (t := x) (rest := ts.map Move.host) hm
    obtain ⟨o, ho, hlen⟩ := ih (s := { (busTransaction x s).1 with
      moves := ts.map Move.host, responses := s.responses ++ [(busTransaction x s).2] }) rfl
    refine ⟨_, observeWithin_of_step hrunning hstep ho, ?_⟩
    rw [List.length_append, hlen, readReturned, hm]
    cases hwe : x.we <;> simp [hwe, Nat.add_comm]

/-- Settles O58: `observeWithin_spec` and `observeWithin_hosts`. -/
theorem observationIsTheReadsAndTheFinalState :
    Obligations.ObservationIsTheReadsAndTheFinalState := by
  refine ⟨fun s o ho => ?_, fun s ts hm => ?_⟩
  · obtain ⟨k, t, rs, hrun, hended, hfinal, hresp, hreads⟩ := observeWithin_spec ho
    obtain ⟨hp, hhosts⟩ := (runEnded_iff t).mp hended
    exact ⟨k, t, rs, hrun, hp, hhosts, hfinal, hresp, hreads⟩
  · rw [observation, hm, List.length_map]
    exact observeWithin_hosts hm

end Sys2Proof.Machine

/-! The bus's statements about idle and about any time: register writes and reads (R33 to R45),
buffer bytes (R43), and what a transaction made twice does (R77). -/

namespace Sys2Proof.Machine

open Sys2Proof Sys2Proof.Safety

/-! ### Register writes -/

/-- A bit of a word by arithmetic. -/
theorem getLsbD_eq_decide (w : Word) (i : Nat) :
    w.getLsbD i = decide (w.toNat / 2 ^ i % 2 = 1) := by
  rw [BitVec.getLsbD, Nat.testBit_eq_decide_div_mod_eq]

/-- A scheduled CTRL write with nothing pending (R37). -/
theorem step_writeCtrl {s : State} {w : Word} {rest : List Move} (hp : s.pending = none)
    (hm : s.moves = .host ⟨true, 4, 0x08#17, w⟩ :: rest) :
    step s = .next { s with
      ie := w.getLsbD 0, strict := w.getLsbD 1, moves := rest
      responses := s.responses ++ [normalResponse 0#32] } := by
  have hreg : regAt ((0x08#17).toNat / 4) = .ctrl := rfl
  rw [step_writeReg hm (by decide) (by decide), hreg, writeReg,
    unlessPending_idle (s := { s with moves := rest }) _ hp]
  rfl

/-- A scheduled LEN write with nothing pending (R38). -/
theorem step_writeLen {s : State} {w : Word} {rest : List Move} (hp : s.pending = none)
    (hm : s.moves = .host ⟨true, 4, 0x0C#17, w⟩ :: rest) :
    step s = .next { s with
      len := BitVec.ofNat 16 w.toNat, moves := rest
      responses := s.responses ++ [normalResponse 0#32] } := by
  have hreg : regAt ((0x0C#17).toNat / 4) = .len := rfl
  rw [step_writeReg hm (by decide) (by decide), hreg, writeReg,
    unlessPending_idle (s := { s with moves := rest }) _ hp]
  rfl

/-- Settles O13: `step_writeCtrl`, its two bits by arithmetic, and `step_writeLen`. -/
theorem ctrlAndLenWrites : Obligations.CtrlAndLenWrites := by
  intro s w rest hp
  refine ⟨fun hm => ⟨normalResponse 0#32, rfl, ?_⟩,
    fun hm => ⟨normalResponse 0#32, rfl, step_writeLen hp hm⟩⟩
  rw [step_writeCtrl hp hm, getLsbD_eq_decide, getLsbD_eq_decide, Nat.pow_zero, Nat.div_one,
    Nat.pow_one]

/-- Settles O19: `step_writeReadOnly`, the four registers being those from 0x10 on. -/
theorem readOnlyRegistersIgnoreWrites : Obligations.ReadOnlyRegistersIgnoreWrites := by
  intro s off w rest hm hoff
  have hreg : 0x10 ≤ off.toNat ∧ off.toNat < 0x20 ∧ off.toNat % 4 = 0 := by
    rcases hoff with rfl | rfl | rfl | rfl <;> decide
  obtain ⟨hlo, hhi, halign⟩ := hreg
  exact ⟨normalResponse 0#32, rfl, step_writeReadOnly hm ⟨hhi, rfl, halign⟩ rfl hlo⟩

/-! ### Register reads -/

/-- The value of two fields side by side. -/
theorem toNat_append_eq {n m : Nat} (x : BitVec n) (y : BitVec m) :
    (x ++ y).toNat = x.toNat * 2 ^ m + y.toNat := by
  rw [BitVec.toNat_append, ← Nat.shiftLeft_add_eq_or_of_lt y.isLt, Nat.shiftLeft_eq]

theorem toNat_zeroExtend {n m : Nat} (x : BitVec n) (h : n ≤ m) :
    (x.zeroExtend m).toNat = x.toNat :=
  BitVec.toNat_setWidth_of_le h

/-- STATUS by its fields' places (R35). -/
theorem toNat_statusWord (s : State) :
    (statusWord s).toNat = (errCode s.err).toNat * 16 + s.werr.toNat * 8 + s.ok.toNat * 4
      + s.done.toNat * 2 + s.pending.isSome.toNat := by
  rw [statusWord, busy, toNat_zeroExtend _ (by decide)]
  simp only [toNat_append_eq, BitVec.toNat_ofBool]
  omega

/-- CTRL by its fields' places (R37). -/
theorem toNat_readReg_ctrl (s : State) :
    (readReg .ctrl s).toNat = s.strict.toNat * 2 + s.ie.toNat := by
  rw [readReg, toNat_zeroExtend _ (by decide)]
  simp only [toNat_append_eq, BitVec.toNat_ofBool, Nat.pow_one]

/-- RX_HDR by its fields' places (R40). -/
theorem toNat_readReg_rxHdr (s : State) :
    (readReg .rxHdr s).toNat
      = s.rxSeq.toNat * 16777216 + s.rxKind.toNat * 65536 + s.rxLen.toNat := by
  simp only [readReg, toNat_append_eq]
  omega

/-- CFG by its fields' places; neither needs more than 16 bits (R44). -/
theorem toNat_cfgWord (p : Params) :
    (cfgWord p).toNat = (p.maxPayload.val + 6) * 65536 + p.maxPayload.val := by
  have hmax := p.maxPayload.isLt
  simp only [cfgWord, toNat_append_eq, BitVec.toNat_ofNat, bufBytes_eq]
  omega

/-- Settles O14: the read is `step_legalRead`, the value one lemma per register. -/
theorem registerReadValues : Obligations.RegisterReadValues := by
  intro s off d rest hm hlt halign
  obtain ⟨v, hstep, hv, -⟩ := step_legalRead hm (.inl ⟨hlt, rfl, halign⟩) rfl
  have hv : v = readReg (regAt (off.toNat / 4)) s := hv hlt
  refine ⟨v, hstep, ?_⟩
  rw [hv]
  refine ⟨?cmd, ?status, ?ctrl, ?len, ?result, ?rxHdr, ?rxCsum, ?cfg⟩ <;> rintro rfl
  case cmd => rfl
  case status => exact toNat_statusWord s
  case ctrl => exact toNat_readReg_ctrl s
  case len => exact toNat_zeroExtend s.len (by decide)
  case result => exact toNat_append_eq s.sum s.csum
  case rxHdr => exact toNat_readReg_rxHdr s
  case rxCsum => exact toNat_zeroExtend s.rxCsum (by decide)
  case cfg => exact toNat_cfgWord s.params

/-! ### Buffer bytes -/

/-- Settles O15: the read is `step_legalRead`; the write stores one byte, which reads back as
written in a canonical buffer. -/
theorem bufferByteAccess : Obligations.BufferByteAccess := by
  intro s we i off w rest hm hoff hi
  have hlegal : LegalBufferAccess s.params ⟨we, 1, off, w⟩ :=
    ⟨by dsimp only; omega, by dsimp only; omega, rfl⟩
  refine ⟨fun hwe => ?read, fun hwe hp hinv => ?write⟩
  case read =>
    obtain ⟨v, hstep, -, hv⟩ := step_legalRead hm (.inr hlegal) hwe
    refine ⟨v, (hv (by dsimp only; omega)).trans ?_, hstep⟩
    rw [hoff, Nat.add_sub_cancel_left]
  case write =>
    subst hwe
    have hb := busTransaction_writeByte w s hoff hi
    rw [unlessPending_idle _ hp] at hb
    refine ⟨Memory.write s.fb i (BitVec.ofNat 8 w.toNat), normalResponse 0#32, rfl, ?_,
      Memory.read_write_same i _ hinv.bufferCanonical, fun a ha => Memory.read_write_other _ ha⟩
    rw [step_host_eq hm, hb]
    rfl

/-! ### A transaction made twice -/

/-- A guarded write that is idempotent and issues nothing stays so under its guard (R77). -/
theorem unlessPending_idem {f : State → State} {s : State} (hp : (f s).pending = s.pending)
    (hf : f (f s) = f s) : unlessPending f (unlessPending f s) = unlessPending f s := by
  obtain hidle | ⟨w, hw⟩ := Option.eq_none_or_eq_some s.pending
  · rw [unlessPending_idle f hidle, unlessPending_idle f (hp.trans hidle), hf]
  · rw [unlessPending_busy f hw, unlessPending_busy (s := dropWrite s) f hw]
    rfl

theorem clearStatus_idem (w : Word) (s : State) :
    clearStatus w (clearStatus w s) = clearStatus w s := by
  simp only [clearStatus_eq, Bool.and_assoc, Bool.and_self]

/-- Every register write but CMD's is idempotent (R77). -/
theorem writeReg_idem {r : Reg} (w : Word) (s : State) (hr : r ≠ .cmd) :
    writeReg r w (writeReg r w s) = writeReg r w s := by
  cases r with
  | cmd => exact absurd rfl hr
  | status => exact clearStatus_idem w s
  | ctrl => exact unlessPending_idem (f := writeCtrl w) rfl rfl
  | len => exact unlessPending_idem (f := writeLen w) rfl rfl
  | result | rxHdr | rxCsum | cfg => rfl

/-- The second of two writes of one byte changes nothing in a canonical buffer (R43). -/
theorem write_write_same {m : Memory} (i : Nat) (b : Byte) (hm : Memory.wf m = true) :
    Memory.write (Memory.write m i b) i b = Memory.write m i b := by
  have hwf : Memory.wf (Memory.write m i b) = true := Memory.wf_write i b hm
  refine Memory.wf_ext (Memory.wf_write i b hwf) hwf fun a => ?_
  by_cases ha : a = i
  · rw [ha, Memory.read_write_same i b hwf, Memory.read_write_same i b hm]
  · exact Memory.read_write_other b ha

theorem writeByte_idem (i : Nat) (w : Word) {s : State} (hm : Memory.wf s.fb = true) :
    writeByte i w (writeByte i w s) = writeByte i w s := by
  simp only [writeByte, write_write_same i _ hm]

/-- A read has no effect, legal or not (R77). -/
theorem busTransaction_of_read {t : Txn} (s : State) (h : t.we = false) :
    (busTransaction t s).1 = s := by
  have hu := hostEffect_busTransaction t s
  generalize (busTransaction t s).1 = u at hu
  cases hu with
  | unchanged => rfl
  | status | issued | ctrl | len => cases h
  | dropped _ hx => exact absurd (hx.1.symm.trans h) (by decide)
  | byte _ hwe => exact absurd (hwe.symm.trans h) (by decide)

/-- Made twice, a transaction at any offset but CMD's leaves what it left once (R77). -/
theorem busTransaction_idem {t : Txn} {s : State} (hi : Inv s) (ht : t.off ≠ 0x00#17) :
    (busTransaction t (busTransaction t s).1).1 = (busTransaction t s).1 := by
  by_cases h : LegalRegisterAccess t ∨ LegalBufferAccess s.params t
  · rcases h with hreg | hbuf
    · simp only [busTransaction_of_legalRegister _ hreg]
      have hr : regAt (t.off.toNat / 4) ≠ .cmd := by
        obtain ⟨hlt, -, halign⟩ := hreg
        rcases aligned_register_offset hlt halign with h | h | h | h | h | h | h | h
        · exact absurd h ht
        all_goals rw [h]; decide
      cases t.we with
      | true => exact writeReg_idem t.wdata s hr
      | false => rfl
    · have hparams := hostEffect_params (hostEffect_busTransaction t s)
      rw [busTransaction_of_legalBuffer (hparams.symm ▸ hbuf), busTransaction_of_legalBuffer hbuf]
      cases t.we with
      | true => exact unlessPending_idem rfl (writeByte_idem _ t.wdata hi.bufferCanonical)
      | false => rfl
  · rw [busTransaction_of_illegal h, busTransaction_of_illegal h]

/-- Settles O17: `busTransaction_of_read` and `busTransaction_idem`; the first CMD write issues, and
the second is dropped. -/
theorem readsAndIdempotentWrites : Obligations.ReadsAndIdempotentWrites := by
  intro s t
  refine ⟨busTransaction_of_read s, busTransaction_idem, fun hp w ht => ?_⟩
  subst ht
  have hissue : (busTransaction ⟨true, 4, 0x00#17, w⟩ s).1
      = { s with pending := some w, done := false } := by
    have hreg : regAt ((0x00#17).toNat / 4) = .cmd := rfl
    rw [busTransaction_writeReg w s (by decide) (by decide), hreg]
    exact unlessPending_idle (fun s => { s with pending := some w, done := false }) hp
  refine ⟨hissue, ?_⟩
  rw [hissue, busTransaction_of_droppable rfl (droppable_register _ w (.inl rfl))]
  rfl

end Sys2Proof.Machine

/-! The commands' statements: completion (R134), what each command leaves alone (R140, R170, R175,
R195, R205), its error codes (R230, R232, R235), and what its result depends on (R85, R136). -/

namespace Sys2Proof.Machine

open Sys2Proof Sys2Proof.Safety

/-- Settles O20: `exec_eq_complete`, the verdict by `Answers.ok_iff`; the rest are fields that a
completion does not write. -/
theorem everyCommandCompletes : Obligations.EveryCommandCompletes := fun i s =>
  ⟨_, exec_eq_complete i s, rfl, rfl, (answers_outcomeOf i s).ok_iff, rfl, rfl, rfl, rfl, rfl, rfl⟩

/-- Settles O57: the bytes verify exactly when their sum is 0xFFFF. -/
theorem computeOverAVerifyingFrameGivesZero :
    Obligations.ComputeOverAVerifyingFrameGivesZero := by
  intro s hfits hv
  have hsum : onesSum (Memory.readBytes s.fb 0 s.len.toNat) = 0xFFFF#16 := of_decide_eq_true hv
  rw [exec_csumCompute_of_le hfits, hsum]
  rfl

/-! ### What a command leaves alone -/

/-- Settles O27: of the four commands none stores (`Answers.stores`), only FRAME_DECODE writes the
RX registers and only the checksum commands RESULT. -/
theorem frameOfTheNonStoringCommands : Obligations.FrameOfTheNonStoringCommands := by
  intro i s t hi hexec
  rw [exec_eq_complete] at hexec
  injection hexec with hexec
  subst hexec
  have h := answers_outcomeOf i s
  obtain ⟨hmem, hlen⟩ | ⟨-, ⟨seq, kind, rfl⟩, -⟩ := h.stores
  · refine ⟨fun a => ?_, ?_, rfl, rfl, rfl, rfl, rfl, rfl, fun hne => ?rx, fun hi => ?result⟩
    · rw [complete_fb, hmem, applyMem_none]
    · rw [complete_len, hlen, Option.getD_none]
    case rx =>
      obtain ⟨hseq, hkind, hrxLen, hrxCsum⟩ | ⟨hdec, -⟩ := h.rx
      · simp [hseq, hkind, hrxLen, hrxCsum]
      · exact absurd hdec hne
    case result =>
      obtain ⟨hsum, hcsum⟩ | ⟨hsums, -⟩ := h.sums
      · simp [hsum, hcsum]
      · rcases hi with rfl | rfl <;> simp at hsums
  · simp at hi

/-- Settles O28: the bytes behind the header by `Answers.read_applyMem_of_le`, those of a payload
past the limit by `exec_frameEncode_of_range`. -/
theorem frameOfFrameEncode : Obligations.FrameOfFrameEncode := by
  intro seq kind s t hexec
  have hrange (hout : s.params.maxPayload.val < s.len.toNat) :
      t.len = s.len ∧ ∀ a, Memory.read t.fb a = Memory.read s.fb a := by
    rw [exec_frameEncode_of_range seq kind hout] at hexec
    injection hexec with hexec
    exact hexec ▸ ⟨rfl, fun _ => rfl⟩
  rw [exec_eq_complete] at hexec
  injection hexec with hexec
  subst hexec
  have h := answers_outcomeOf (.frameEncode seq kind) s
  obtain ⟨hsum, hcsum⟩ | ⟨hsums, -⟩ := h.sums
  · obtain ⟨hseq, hkind, hrxLen, hrxCsum⟩ | ⟨hdec, -⟩ := h.rx
    · refine ⟨fun a ha => h.read_applyMem_of_le s.fb ?_, hrange, ?_⟩
      · rw [headerIndex] at ha
        omega
      · simp [hsum, hcsum, hseq, hkind, hrxLen, hrxCsum]
    · cases hdec
  · simp at hsums

/-- A stored header reads back byte by byte: SEQ, KIND, the payload's length and the checksum, the
last two with the high byte first (R190, R195). -/
theorem read_of_stored_frameHeader {sb kb : Byte} {p : List Byte} {m m' : Memory}
    (hm : Memory.wf m = true) (hm' : m' = Memory.writeBytes m 0 (frameHeader sb kb p)) :
    Memory.read m' 0 = sb ∧ Memory.read m' 1 = kb ∧
    Memory.read m' 2 = hiByte (BitVec.ofNat 16 p.length) ∧
    Memory.read m' 3 = loByte (BitVec.ofNat 16 p.length) ∧
    Memory.read m' 4 = hiByte (checksum (zeroedFrame sb kb p)) ∧
    Memory.read m' 5 = loByte (checksum (zeroedFrame sb kb p)) := by
  have hread := Memory.readBytes_writeBytes 0 (frameHeader sb kb p) hm
  rw [← hm', length_frameHeader] at hread
  simpa [frameHeader, preHeader] using hread

/-- Settles O29: `read_of_stored_frameHeader`, two bytes of a 16-bit value making it up. -/
theorem frameEncodeHeaderBytes : Obligations.FrameEncodeHeaderBytes := by
  intro seq kind s hi hle
  have hlen : BitVec.ofNat 16 (Memory.readBytes s.fb 6 s.len.toNat).length = s.len := by
    rw [Memory.length_readBytes, BitVec.ofNat_toNat, BitVec.setWidth_eq]
  refine ⟨_, exec_frameEncode_of_le seq kind hle, ?_⟩
  obtain ⟨h0, h1, h2, h3, h4, h5⟩ := read_of_stored_frameHeader (sb := seqByte seq)
    (kb := kindByte kind) (p := Memory.readBytes s.fb 6 s.len.toNat) hi.bufferCanonical rfl
  dsimp only
  rw [h0, h1, h2, h3, h4, h5, ← toNat_halfOf, ← toNat_halfOf, halfOf_hiByte_loByte,
    halfOf_hiByte_loByte]
  exact ⟨toNat_seqByte seq, toNat_kindByte kind, congrArg _ hlen, rfl⟩

/-! ### Error codes -/

/-- ERR is 0, the code of an error raised, or the CHECKSUM verdict of CSUM_VERIFY (R230). -/
theorem Answers.err_cases {s : State} {i : Instr} {o : CmdOutcome} (h : Answers s i o) :
    o.err = .none ∨ Raises s i o.err ∨ (i = .csumVerify ∧ o.err = .checksum) := by
  cases h with
  | raised h => exact .inr (.inl h)
  | nop | computed | verified | encoded | decoded => exact .inl rfl
  | mismatched => exact .inr (.inr ⟨rfl, rfl⟩)

/-- LEN past the buffer's size is refused before anything is read (R232). -/
theorem outcomeOf_of_inputRange {i : Instr} {s : State}
    (hi : i = .csumCompute ∨ i = .csumVerify ∨ i = .frameDecode)
    (hout : s.params.maxPayload.val + 6 < s.len.toNat) : outcomeOf i s = raise .range := by
  have hout : inputOutOfRange s.params s.len = true := (inputOutOfRange_iff _ _).mpr hout
  rcases hi with rfl | rfl | rfl <;> exact if_pos hout

/-- LEN past the payload limit likewise (R232). -/
theorem outcomeOf_of_payloadRange (seq : BitVec 1) (kind : BitVec 2) {s : State}
    (hout : s.params.maxPayload.val < s.len.toNat) :
    outcomeOf (.frameEncode seq kind) s = raise .range :=
  if_pos ((payloadOutOfRange_iff _ _).mpr hout)

/-- RANGE is always an error raised. -/
theorem raises_of_err_range {i : Instr} {s : State} (h : (outcomeOf i s).err = .range) :
    Raises s i .range := by
  rcases (answers_outcomeOf i s).err_cases with he | hr | ⟨-, he⟩
  · cases h.symm.trans he
  · exact h ▸ hr
  · cases h.symm.trans he

/-- Settles O31: `raises_of_err_range` one way, the two range checks the other way. -/
theorem rangeChecks : Obligations.RangeChecks := by
  intro i s
  refine ⟨_, exec_eq_complete i s, fun hi => ⟨fun he => ?_, fun hout => ?_⟩,
    fun seq kind hi => ⟨fun he => ?_, fun hout => ?_⟩, fun hi he => ?_⟩
  · cases raises_of_err_range he with
    | inputRange _ hout => exact hout
    | payloadRange => simp at hi
  · rw [complete_err, outcomeOf_of_inputRange hi hout, raise_err]
  · subst hi
    cases raises_of_err_range he with
    | inputRange hi => simp at hi
    | payloadRange hout => exact hout
  · rw [hi, complete_err, outcomeOf_of_payloadRange seq kind hout, raise_err]
  · subst hi
    cases raises_of_err_range he with
    | inputRange hi => simp at hi

/-- Settles O33: each code's condition is the one it is raised under. -/
theorem errorCodesOfEachCommand : Obligations.ErrorCodesOfEachCommand := by
  intro i s
  refine ⟨_, exec_eq_complete i s, ?_⟩
  rw [complete_err]
  rcases (answers_outcomeOf i s).err_cases with he | hr | ⟨rfl, he⟩
  · simp [he]
  · generalize (outcomeOf i s).err = e at hr ⊢
    cases hr with
    | inputRange hi => rcases hi with rfl | rfl | rfl <;> simp
    | payloadRange | length | checksum => simp
    | short _ hshort => simp [hshort]
    | field _ hstrict => simp [hstrict]
  · simp [he]

/-! ### What a result depends on -/

/-- Settles O43: equal operands give one outcome, and each result register is in it or is not. -/
theorem resultsDependOnlyOnTheOperands : Obligations.ResultsDependOnlyOnTheOperands := by
  intro i s s' hp hl hs hfb
  have ho := outcomeOf_congr i hp hl hs hfb
  have h := answers_outcomeOf i s
  refine ⟨_, _, exec_eq_complete i s, exec_eq_complete i s', ?_⟩
  rw [← ho]
  refine ⟨rfl, rfl, ?len, ?fb, ?result, ?rx⟩
  case len => rw [complete_len, complete_len, hl]
  case fb => rw [complete_fb, complete_fb, hfb]
  case result =>
    rcases h.sums with ⟨hsum, hcsum⟩ | ⟨-, S, hsum, hcsum⟩
    · exact .inr (by simp [hsum, hcsum])
    · exact .inl (by simp [hsum, hcsum])
  case rx =>
    rcases h.rx with ⟨hsq, hkd, hn, hc⟩ | ⟨-, -, sq, kd, n, c, hsq, hkd, hn, hc, -⟩
    · exact .inr (by simp [hsq, hkd, hn, hc])
    · exact .inl (by simp [hsq, hkd, hn, hc])

/-- The input commands read no byte from LEN on, and none at all when LEN is out of range (R85). -/
theorem outcomeOf_input_congr {i : Instr} {s : State} {m : Memory}
    (hi : i = .csumCompute ∨ i = .csumVerify ∨ i = .frameDecode)
    (hm : ∀ a, Memory.read m a ≠ Memory.read s.fb a →
      s.len.toNat ≤ a ∨ s.params.maxPayload.val + 6 < s.len.toNat) :
    outcomeOf i { s with fb := m } = outcomeOf i s := by
  by_cases hout : s.params.maxPayload.val + 6 < s.len.toNat
  · rw [outcomeOf_of_inputRange hi hout]
    exact outcomeOf_of_inputRange (s := { s with fb := m }) hi hout
  · have hbytes : inputBytes m s.len.toNat = inputBytes s.fb s.len.toNat :=
      Memory.readBytes_congr fun j _ hj => not_imp_comm.mp (hm j) (by omega)
    rcases hi with rfl | rfl | rfl
    · simp only [outcomeOf, csumComputeOutcome, hbytes]
    · simp only [outcomeOf, csumVerifyOutcome, hbytes]
    · simp only [outcomeOf, frameDecodeOutcome, hbytes]

/-- FRAME_ENCODE reads the payload's bytes alone, and none when LEN is out of range (R85). -/
theorem outcomeOf_frameEncode_congr (seq : BitVec 1) (kind : BitVec 2) {s : State} {m : Memory}
    (hm : ∀ a, Memory.read m a ≠ Memory.read s.fb a →
      a < 6 ∨ 6 + s.len.toNat ≤ a ∨ s.params.maxPayload.val < s.len.toNat) :
    outcomeOf (.frameEncode seq kind) { s with fb := m } = outcomeOf (.frameEncode seq kind) s := by
  by_cases hout : s.params.maxPayload.val < s.len.toNat
  · rw [outcomeOf_of_payloadRange seq kind hout]
    exact outcomeOf_of_payloadRange seq kind (s := { s with fb := m }) hout
  · have hbytes : payloadBytes m s.len.toNat = payloadBytes s.fb s.len.toNat :=
      Memory.readBytes_congr fun j hlo hhi => not_imp_comm.mp (hm j) (by
        simp only [Config.headerBytes] at hlo hhi
        omega)
    simp only [outcomeOf, frameEncodeOutcome, hbytes]

/-- A byte that a command changes is one of the six of a successful FRAME_ENCODE (R85). -/
theorem Answers.of_read_applyMem_ne {s : State} {i : Instr} {o : CmdOutcome} (h : Answers s i o)
    {m : Memory} {a : Nat} (hne : Memory.read (applyMem o.effects.mem m) a ≠ Memory.read m a) :
    a < 6 ∧ o.ok = true ∧ ∃ seq kind, i = .frameEncode seq kind := by
  have ha : a < 6 := Nat.lt_of_not_le fun hle => hne (h.read_applyMem_of_le m hle)
  obtain ⟨hmem, -⟩ | ⟨hok, hi, -⟩ := h.stores
  · rw [hmem, applyMem_none] at hne
    exact absurd rfl hne
  · exact ⟨ha, hok, hi⟩

/-- The six bytes are the same whatever buffer they are stored to (R85). -/
theorem Answers.read_applyMem_of_lt {s : State} {seq : BitVec 1} {kind : BitVec 2} {o : CmdOutcome}
    (h : Answers s (.frameEncode seq kind) o) (hok : o.ok = true) {m m' : Memory}
    (hm : Memory.wf m = true) (hm' : Memory.wf m' = true) {a : Nat} (ha : a < 6) :
    Memory.read (applyMem o.effects.mem m') a = Memory.read (applyMem o.effects.mem m) a := by
  cases h with
  | raised => cases hok
  | encoded =>
    have hinside {m : Memory} (hm : Memory.wf m = true) (bs : List Byte) (hbs : bs.length = 6) :
        Memory.read (Memory.writeBytes m 0 bs) a = bs.getD a 0#8 := by
      rw [← Memory.read_writeBytes_inside (a := 0) bs hm (by omega), Nat.zero_add]
    exact (hinside hm' _ (length_frameHeader _ _ _)).trans
      (hinside hm _ (length_frameHeader _ _ _)).symm

/-- Settles O30: the two runs have one outcome, whose six bytes at most are stored. -/
theorem engineTouchesOnlyItsCheckedRange : Obligations.EngineTouchesOnlyItsCheckedRange := by
  intro i s fb' hagree
  have ho : outcomeOf i { s with fb := fb' } = outcomeOf i s := by
    cases i with
    | nop => rfl
    | csumCompute => exact outcomeOf_input_congr (.inl rfl) hagree
    | csumVerify => exact outcomeOf_input_congr (.inr (.inl rfl)) hagree
    | frameEncode seq kind => exact outcomeOf_frameEncode_congr seq kind hagree
    | frameDecode => exact outcomeOf_input_congr (.inr (.inr rfl)) hagree
  have h := answers_outcomeOf i s
  refine ⟨_, _, exec_eq_complete i s, exec_eq_complete i { s with fb := fb' }, ?_⟩
  rw [ho]
  refine ⟨rfl, fun a ha => h.read_applyMem_of_le s.fb ha,
    fun a hne => h.of_read_applyMem_ne hne, ?_⟩
  rintro hwf hwf' seq kind rfl hok a ha
  exact h.read_applyMem_of_lt hok hwf hwf' ha

end Sys2Proof.Machine

/-! The statements about which steps change what: the interrupt (R240), WERR (R234), and the
registers and the buffer (R38 to R43). -/

namespace Sys2Proof.Machine

open Sys2Proof Sys2Proof.Safety

/-! ### The interrupt -/

theorem irq_iff (s : State) : irq s = true ↔ s.ie = true ∧ s.done = true := by
  rw [irq, Bool.and_eq_true]

theorem irq_of_done_false {s : State} (h : s.done = false) : irq s = false := by
  rw [irq, h, Bool.and_false]

/-- A transaction raises the interrupt only as a CTRL write that sets IE while DONE = 1 (R241). -/
theorem hostEffect_irq_rise {s u : State} {x : Txn} (h : HostEffect s x u) (hs : irq s = false)
    (hu : irq u = true) :
    s.done = true ∧ s.pending = none ∧ ∃ w, x = ⟨true, 4, 0x08#17, w⟩ ∧ w.getLsbD 0 = true := by
  rw [irq_iff] at hu
  obtain ⟨hie, hdone⟩ := hu
  have hlow : ¬ (s.ie = true ∧ s.done = true) := by rw [← irq_iff, hs]; exact Bool.false_ne_true
  cases h with
  | unchanged | dropped | len | byte => exact absurd ⟨hie, hdone⟩ hlow
  | status =>
    simp only [clearStatus_done, Bool.if_false_left, Bool.and_eq_true] at hdone
    exact absurd ⟨hie, hdone.2⟩ hlow
  | issued => cases hdone
  | ctrl hp => exact ⟨hdone, hp, _, rfl, hie⟩

/-- A transaction lowers it only as a STATUS write with bit 1, an issue, or a CTRL write that clears
IE (R241). -/
theorem hostEffect_irq_fall {s u : State} {x : Txn} (h : HostEffect s x u) (hs : irq s = true)
    (hu : irq u = false) :
    (∃ w, x = ⟨true, 4, 0x04#17, w⟩ ∧ w.getLsbD 1 = true) ∨
    (s.pending = none ∧ ∃ w, x = ⟨true, 4, 0x00#17, w⟩) ∨
    (s.pending = none ∧ u.done = s.done ∧
      ∃ w, x = ⟨true, 4, 0x08#17, w⟩ ∧ w.getLsbD 0 = false) := by
  obtain ⟨hie, hdone⟩ := (irq_iff s).mp hs
  cases h with
  | unchanged | dropped | len | byte => cases hs.symm.trans hu
  | @status w =>
    rw [irq, clearStatus_ie, clearStatus_done, hie, hdone, Bool.true_and] at hu
    exact .inl ⟨w, rfl, by simpa using hu⟩
  | issued hp => exact .inr (.inl ⟨hp, _, rfl⟩)
  | @ctrl w hp =>
    rw [irq, writeCtrl_ie, writeCtrl_done, hdone, Bool.and_true] at hu
    exact .inr (.inr ⟨hp, rfl, w, rfl, hu⟩)

/-- Settles O34: the steps named by the step's own equation, the causes by the kind of step. -/
theorem interruptRisesAndFalls : Obligations.InterruptRisesAndFalls := by
  refine ⟨irq_iff, fun s t hstep => ?_⟩
  have of_step {u : State} (h : step s = .next u) : t = u := by
    rw [hstep] at h
    injection h
  refine ⟨fun hie hp hm => ?completion, fun w rest hp hm => ?ctrl, fun w rest hm hw => ?status,
    fun w rest hp hm => ?issue, fun rest hm => ?reset, fun hs ht => ?rise, fun hs ht => ?fall⟩
  case completion =>
    obtain ⟨w, hw⟩ := Option.ne_none_iff_exists'.mp hp
    rw [of_step (step_of_pending hw hm), irq_iff]
    exact ⟨hie, rfl⟩
  case ctrl => rw [of_step (step_writeCtrl hp hm), irq_iff]
  case status =>
    rw [of_step (step_writeStatus hm)]
    exact irq_of_done_false (by simp [hw])
  case issue =>
    rw [of_step (step_issue hp hm)]
    exact irq_of_done_false rfl
  case reset =>
    rw [of_step (step_reset hm)]
    exact irq_of_done_false rfl
  case rise =>
    cases stepEffect_of_step hstep with
    | idle => cases hs.symm.trans ht
    | completed hp =>
      refine .inl ⟨((irq_iff _).mp ht).1, ?_, rfl, rfl⟩
      rw [hp]
      exact Option.some_ne_none _
    | host hm hu =>
      obtain ⟨hdone, hp, w, rfl, hw⟩ := hostEffect_irq_rise hu hs ht
      exact .inr ⟨hdone, hp, w, _, hm, hw⟩
    | reset => cases ht
  case fall =>
    cases stepEffect_of_step hstep with
    | idle => cases hs.symm.trans ht
    | completed =>
      cases ht.symm.trans ((irq_iff _).mpr ⟨((irq_iff s).mp hs).1, rfl⟩)
    | host hm hu =>
      rcases hostEffect_irq_fall hu hs ht with ⟨w, rfl, hw⟩ | ⟨hp, w, rfl⟩ | ⟨hp, hdone, w, rfl, hw⟩
      · exact .inr (.inl ⟨w, _, hm, hw⟩)
      · exact .inr (.inr (.inl ⟨hp, w, _, hm⟩))
      · exact .inr (.inr (.inr ⟨hp, hdone, w, _, hm, hw⟩))
    | reset hm => exact .inl ⟨_, hm⟩

/-! ### WERR -/

/-- A transaction leaves WERR, or is a dropped write that sets it, or a STATUS write that can clear
it (R42). -/
theorem hostEffect_werr {s u : State} {x : Txn} (h : HostEffect s x u) :
    u.werr = s.werr ∨ (s.pending ≠ none ∧ DroppableWrite s.params x ∧ u.werr = true) ∨
    (u.werr = false ∧ ∃ w, x = ⟨true, 4, 0x04#17, w⟩ ∧ w.getLsbD 3 = true) := by
  cases h with
  | unchanged | issued | ctrl | len | byte => exact .inl rfl
  | @status w =>
    rw [clearStatus_werr]
    split
    · next hw => exact .inr (.inr ⟨rfl, w, rfl, hw⟩)
    · exact .inl rfl
  | dropped hp hx => exact .inr (.inl ⟨hp, hx, rfl⟩)

/-- A flag that stays as it is neither rises nor falls. -/
theorem rises_and_falls_of_eq {b c : Bool} {P Q : Prop} (h : c = b) :
    (b = false → c = true → P) ∧ (b = true → c = false → Q) := by
  subst h
  cases c <;> simp

/-- Settles O35: no step but a transaction or a reset writes WERR. -/
theorem werrIsSticky : Obligations.WerrIsSticky := by
  intro s t hstep
  cases stepEffect_of_step hstep with
  | idle | completed => exact rises_and_falls_of_eq rfl
  | @host x rest u hm hu =>
    rcases hostEffect_werr hu with hkeep | ⟨hp, hx, hset⟩ | ⟨hclear, w, rfl, hw⟩
    · exact rises_and_falls_of_eq hkeep
    · exact ⟨fun _ _ => ⟨hp, x, rest, hm, hx⟩,
        fun _ ht => absurd (ht.symm.trans hset) Bool.false_ne_true⟩
    · exact ⟨fun _ ht => absurd (hclear.symm.trans ht) Bool.false_ne_true,
        fun _ _ => .inr ⟨w, rest, hm, hw⟩⟩
  | @reset rest hm =>
    exact ⟨fun _ ht => absurd ht Bool.false_ne_true, fun _ _ => .inl ⟨rest, hm⟩⟩

/-! ### The registers and the buffer -/

/-- RESULT is written by the words of the checksum commands alone (R39). -/
theorem wordOutcome_sums (w : Word) (s : State) :
    ((wordOutcome w s).effects.sum = none ∧ (wordOutcome w s).effects.csum = none) ∨
    w = encode .csumCompute ∨ w = encode .csumVerify := by
  rcases wordOutcome_cases w s with ⟨i, rfl, h⟩ | h
  · rcases h.sums with hnone | ⟨rfl | rfl, -⟩
    · exact .inl hnone
    · exact .inr (.inl rfl)
    · exact .inr (.inr rfl)
  · exact .inl (by rw [h]; exact ⟨rfl, rfl⟩)

/-- The RX registers are written by an accepting FRAME_DECODE alone (R40, R41). -/
theorem wordOutcome_rx (w : Word) (s : State) :
    ((wordOutcome w s).effects.rxSeq = none ∧ (wordOutcome w s).effects.rxKind = none ∧
      (wordOutcome w s).effects.rxLen = none ∧ (wordOutcome w s).effects.rxCsum = none) ∨
    (w = encode .frameDecode ∧ (wordOutcome w s).ok = true) := by
  rcases wordOutcome_cases w s with ⟨i, rfl, h⟩ | h
  · rcases h.rx with hnone | ⟨rfl, hok, -⟩
    · exact .inl hnone
    · exact .inr ⟨rfl, hok⟩
  · exact .inl (by rw [h]; exact ⟨rfl, rfl, rfl, rfl⟩)

/-- LEN and the buffer's first six bytes are written only by a successful FRAME_ENCODE (R38, R43). -/
theorem wordOutcome_stores (w : Word) (s : State) :
    ((wordOutcome w s).effects.mem = none ∧ (wordOutcome w s).effects.len = none) ∨
    ((∀ m a, Memory.read (applyMem (wordOutcome w s).effects.mem m) a ≠ Memory.read m a → a < 6) ∧
      (wordOutcome w s).ok = true ∧ ∃ seq kind, w = encode (.frameEncode seq kind)) := by
  rcases wordOutcome_cases w s with ⟨i, rfl, h⟩ | h
  · rcases h.stores with hnone | ⟨hok, ⟨seq, kind, rfl⟩, -⟩
    · exact .inl hnone
    · exact .inr ⟨fun m a hne => (h.of_read_applyMem_ne hne).1, hok, seq, kind, rfl⟩
  · exact .inl (by rw [h]; exact ⟨rfl, rfl⟩)

/-- The host writes no result register and no verdict (R45). -/
theorem hostEffect_results {s u : State} {x : Txn} (h : HostEffect s x u) :
    u.sum = s.sum ∧ u.csum = s.csum ∧ u.rxSeq = s.rxSeq ∧ u.rxKind = s.rxKind ∧
      u.rxLen = s.rxLen ∧ u.rxCsum = s.rxCsum ∧ u.ok = s.ok ∧ u.err = s.err := by
  cases h <;> exact ⟨rfl, rfl, rfl, rfl, rfl, rfl, rfl, rfl⟩

theorem hostEffect_len {s u : State} {x : Txn} (h : HostEffect s x u) :
    u.len = s.len ∨ (s.pending = none ∧ ∃ w, x = ⟨true, 4, 0x0C#17, w⟩) := by
  cases h with
  | len hp => exact .inr ⟨hp, _, rfl⟩
  | unchanged | status | dropped | issued | ctrl | byte => exact .inl rfl

theorem hostEffect_ctrl {s u : State} {x : Txn} (h : HostEffect s x u) :
    (u.ie = s.ie ∧ u.strict = s.strict) ∨
    (s.pending = none ∧ ∃ w, x = ⟨true, 4, 0x08#17, w⟩) := by
  cases h with
  | ctrl hp => exact .inr ⟨hp, _, rfl⟩
  | unchanged | status | dropped | issued | len | byte => exact .inl ⟨rfl, rfl⟩

/-- A transaction changes a byte only as a legal write of that byte (R43). -/
theorem hostEffect_read {s u : State} {x : Txn} (h : HostEffect s x u) (a : Nat) :
    Memory.read u.fb a = Memory.read s.fb a ∨
    (s.pending = none ∧ x.we = true ∧ LegalBufferAccess s.params x ∧
      x.off.toNat = 0x10000 + a) := by
  cases h with
  | @byte x i hp hwe hx hoff =>
    by_cases ha : a = i
    · exact .inr ⟨hp, hwe, hx, ha ▸ hoff⟩
    · exact .inl (Memory.read_write_other _ ha)
  | unchanged | status | dropped | issued | ctrl | len => exact .inl rfl

/-- Settles O36: a completion by what its word's outcome writes, a transaction by what a host's
write can be; the idle step changes nothing and a reset is excluded. -/
theorem onlyTheirOwnStepsChangeTheRegisters : Obligations.OnlyTheirOwnStepsChangeTheRegisters := by
  intro s t hstep hreset
  cases stepEffect_of_step hstep with
  | idle => simp
  | @completed w hp hm =>
    refine ⟨fun hne => ⟨rfl, ?sums⟩, fun hne => ?rx, fun _ => ⟨?_, rfl⟩, fun hne => .inr ?len,
      fun a hne => .inr ?bytes, fun hne => by simp at hne⟩
    case sums =>
      rcases wordOutcome_sums w s with ⟨hsum, hcsum⟩ | rfl | rfl
      · simp [hsum, hcsum] at hne
      · exact .inl hp
      · exact .inr hp
    case rx =>
      rcases wordOutcome_rx w s with ⟨hsq, hkd, hn, hc⟩ | ⟨rfl, hok⟩
      · simp [hsq, hkd, hn, hc] at hne
      · exact ⟨hp, rfl, hok⟩
    case len =>
      rcases wordOutcome_stores w s with ⟨-, hlen⟩ | ⟨-, hok, seq, kind, rfl⟩
      · simp [hlen] at hne
      · exact ⟨rfl, hok, seq, kind, hp⟩
    case bytes =>
      rcases wordOutcome_stores w s with ⟨hmem, -⟩ | ⟨hsix, hok, seq, kind, rfl⟩
      · simp [hmem] at hne
      · exact ⟨hsix s.fb a hne, rfl, hok, seq, kind, hp⟩
    · rw [hp]
      exact Option.some_ne_none w
  | @host x rest u hm hu =>
    obtain ⟨hsum, hcsum, hsq, hkd, hn, hc, hok, herr⟩ := hostEffect_results hu
    refine ⟨by simp [hsum, hcsum], by simp [hsq, hkd, hn, hc], by simp [hok, herr],
      fun hne => .inl ?len, fun a hne => .inl ?bytes, fun hne => ?ctrl⟩
    case len =>
      rcases hostEffect_len hu with hkeep | ⟨hp, w, rfl⟩
      · exact absurd hkeep hne
      · exact ⟨w, rest, hp, hm⟩
    case bytes =>
      rcases hostEffect_read hu a with hkeep | ⟨hp, hwe, hx, hoff⟩
      · exact absurd hkeep hne
      · exact ⟨x, rest, hp, hm, hwe, hx, hoff⟩
    case ctrl =>
      rcases hostEffect_ctrl hu with ⟨hie, hstrict⟩ | ⟨hp, w, rfl⟩
      · simp [hie, hstrict] at hne
      · exact ⟨w, rest, hp, hm⟩
  | reset hm => exact absurd hm (hreset _)

end Sys2Proof.Machine

/-! Two more statements about the checksum (spec/41_checksum.md): grouping (R164) and the two values
of a zero checksum field (R185). -/

namespace Sys2Proof.Machine

open Sys2Proof

/-- Folding the groups' sums first changes nothing: group by group, `fold_fold_add` (R164). -/
theorem fold_groups (groups : List (List Half)) :
    fold ((groups.map fun g => fold ((g.map BitVec.toNat).sum)).sum)
      = fold ((groups.flatten.map BitVec.toNat).sum) := by
  induction groups with
  | nil => rfl
  | cons g gs ih =>
    rw [List.map_cons, List.sum_cons, fold_fold_add, ← fold_add_fold, ih, fold_add_fold,
      List.flatten_cons, List.map_append, List.sum_append]

/-- Settles O46: `fold_groups`, `fold_fold_add`, and that a sum does not depend on the order. -/
theorem groupingDoesNotMatter : Obligations.GroupingDoesNotMatter :=
  ⟨fold_groups, fold_fold_add, fun _ _ h => congrArg fold (h.map BitVec.toNat).sum_eq⟩

/-- A checksum of 0x0000 is that of bytes that verify (R167). -/
theorem checksum_eq_zero_iff_verifies (b : List Byte) :
    checksum b = 0x0000#16 ↔ verifies b = true := by
  rw [checksum_eq_zero_iff, verifies, decide_eq_true_iff]

/-- A checksum of 0xFFFF is that of zero bytes (R180). -/
theorem checksum_eq_ones_iff (b : List Byte) : checksum b = 0xFFFF#16 ↔ rawSum b = 0 := by
  have := fold_spec (rawSum b)
  rw [← BitVec.toNat_inj, toNat_checksum, BitVec.toNat_ofNat]
  omega

/-- Settles O53: a verifying zero field has a positive word beside it (`verifies_iff`), so 0xFFFF
reads the same; where all else is zero, 0xFFFF alone verifies. -/
theorem negativeZeroAlias : Obligations.NegativeZeroAlias := by
  intro x y hx
  have heven : x.length % 2 = 0 := by rw [hx]
  have hzeros : rawSum (x ++ [0x00#8, 0x00#8] ++ y) = rawSum x + rawSum y :=
    rawSum_append_pair_append _ _ y heven
  have hones : rawSum (x ++ [0xFF#8, 0xFF#8] ++ y) = rawSum x + 0xFFFF + rawSum y :=
    rawSum_append_pair_append _ _ y heven
  refine ⟨fun h => ?zero, fun h => ?ones⟩
  case zero =>
    have hv := (checksum_eq_zero_iff_verifies _).mp h
    obtain ⟨hpos, -⟩ := (verifies_iff _).mp hv
    rw [hzeros, ← rawSum_append_even y heven] at hpos
    exact ⟨hv, (verifies_zero_word_eq_ones_word heven hpos).symm.trans hv⟩
  case ones =>
    have hsum := (checksum_eq_ones_iff _).mp h
    refine ⟨(rawSum_eq_zero_iff _).mp ?_, (verifies_iff _).mpr ?_, ?_⟩
    · rw [rawSum_append_even y heven, ← hzeros, hsum]
    · omega
    · rw [Bool.eq_false_iff, ne_eq, verifies_iff, hsum]
      exact fun ⟨hpos, _⟩ => absurd hpos (Nat.lt_irrefl 0)

end Sys2Proof.Machine
